-- ==== Sys2Proof/Word.lean ====
section
/-! DEFINITION. The value types of the block (spec/00_scope.md R7): bytes, 16-bit and 128-bit register values.
All values are unsigned and bit 0 is the least significant bit. -/

namespace Sys2Proof

/-- A byte: an unsigned integer 0 to 255 (R7). -/
abbrev Byte := BitVec 8

/-- A u16: the width of the CRC register and of the length registers (R7). -/
abbrev Word16 := BitVec 16

/-- A 128-bit register: `P_IV`, `CTX_IV`, `CV`. Byte `i` of the string stands in bits `8i+7 : 8i` (R48 e). -/
abbrev Word128 := BitVec 128

/-- A byte string. A block is one of length 16 (R8). -/
abbrev Bytes := List Byte

end Sys2Proof
end

