-- ==== Sys2Proof/Config.lean ====
section
/-! DEFINITION. What is fixed for a machine: the constants of R5 (namespace `Param`), the configurable parameters
of R6 (structure `Config`), the vocabulary of the bus trace (R45), and the one free value of the model, the answer
of the device to a chunk request (R47). -/

namespace Sys2Proof

/-! ## Constants the document fixes (R5) -/

/-- `CRC_POLY` (R5). -/
def Param.crcPoly : Word16 := 0x8005
/-- `CRC_INIT`: the register is reinitialised to 0 for every computation (R5, R90). -/
def Param.crcInit : Word16 := 0x0000
/-- `BLOCK`: 16 bytes (R5). -/
def Param.block : Nat := 16
/-- `CHUNK_MAX`: 32 bytes (R5, R69). -/
def Param.chunkMax : Nat := 32
/-- `RETRY_BUDGET`: 20 chunk requests (R5, R116). -/
def Param.retryBudget : Nat := 20
/-- `SLOT_MAX` (R5, R131). -/
def Param.slotMax : Nat := 15
/-- `KEYIDX_MAX` (R5, R131). -/
def Param.keyIdxMax : Nat := 3
/-- `CRYPT_RESP_LEN`: 1 + 16 + 2 bytes (R5, R132). -/
def Param.cryptRespLen : Nat := 19
/-- `PAD_MAX` (R5, R145). -/
def Param.padMax : Nat := 16

/-- Size of `TXBUF`: 255 bytes (R21). -/
def Param.txBufSize : Nat := 255

/-! ## Durations left open (R212). No rule depends on them, and nothing in the model reads them. -/

/-- `T_WLO`: how long the wake sequence holds the bus low; an open parameter (R6, R212). -/
opaque Param.tWlo : Nat
/-- `T_WHI`: how long the wake sequence then waits with the bus high; an open parameter (R6, R212). -/
opaque Param.tWhi : Nat
/-- `T_EXEC`: how long `BusExecWait` waits; an open parameter (R6, R212). -/
opaque Param.tExec : Nat

/-- The parameters of R6 that carry a value. One value of this type stands in `State.cfg` and no step changes it, so
that a claim over all states is a claim over all configurations. -/
structure Config where
  /-- `COUNT_SELF` (R6, D4): true (1) if a frame's count byte counts itself; the spec takes false (0). -/
  countSelf : Bool
  /-- `WORD_ADDR_CMD` (R6, R51, D5): the marker that opens a command frame; the spec takes `0x03`. -/
  wordAddrCmd : Byte
  /-- `AES_OPCODE` (R6, R67, D6): the opcode of the single-block command; the spec takes `0x51`. -/
  aesOpcode : Byte
  /-- `MAX_PAYLOAD` (R6, D7): the longest command payload; the spec decides 247. -/
  maxPayload : Nat
  /-- `RX_CAP` (R6, D8): capacity of the receive buffer; the spec decides 256. -/
  rxCap : Nat
  /-- `BUF_CAP` (R6, D9): capacity of INBUF and OUTBUF; any multiple of 16 from 272 to 65504, default 1024. -/
  bufCap : Nat
  deriving DecidableEq, Repr

/-- The values the spec takes (R6). -/
def Config.taken : Config where
  countSelf := false
  wordAddrCmd := 0x03
  aesOpcode := 0x51
  maxPayload := 247
  rxCap := 256
  bufCap := 1024

/-- The legal configurations (R6, D4 to D9): the marker, the opcode and `COUNT_SELF` are free, `MAX_PAYLOAD` and
`RX_CAP` are decided, `BUF_CAP` is any multiple of 16 from 272 to 65504. -/
abbrev Config.Legal (c : Config) : Prop :=
  c.maxPayload = 247 ∧ c.rxCap = 256 ∧ c.bufCap % 16 = 0 ∧ 272 ≤ c.bufCap ∧ c.bufCap ≤ 65504

/-- One bus event (R45): one per call of a bus primitive of R44. -/
inductive BusEvent where
  /-- `EvWake`: the wake sequence. -/
  | wake
  /-- `EvWrite(s)`: the bytes of one write transaction. -/
  | write (s : Bytes)
  /-- `EvRead(n, c)`: the size asked for and the bytes returned. -/
  | read (n : Nat) (c : Bytes)
  /-- `EvExecWait`: the wait between a single-block command and the first read of its response. -/
  | execWait
  /-- `EvIdle`: the idle transition. -/
  | idle
  deriving DecidableEq, Repr

/-- The oracle of R47, a FREE VALUE: what the device answers to `BusRead(n)` when no answer is scripted in
`State.answers`. It may depend on which device stands on the bus (`era`, a fresh one after every reset of the block,
U6) and on everything that has happened on the bus so far. It has no body: nothing can be proved of its value. The
bound `len(c) <= n` of R47 is imposed where it is used (`busRead`). -/
opaque Param.deviceAnswer : (era : Nat) → (history : List BusEvent) → (n : Nat) → Bytes

end Sys2Proof
end

