-- ==== Sys2Proof/HostProgram.lean ====
section
/-! DEFINITION. The lines of a host program (R75): what the agent outside the block can do to it, one action a line,
and what a read gives back to the host. -/

namespace Sys2Proof

/-- One action of the host, or one mark of the schedule (`tick`, `rst`) that the model reads from its queue. -/
inductive HostAction where
  /-- `cmd NAME` (R75): writes the code to `CMD` and waits until `DONE = 1`. -/
  | cmd (code : Byte)
  /-- `wr REG, value` (R75): one whole register, by its number (R14). A write to register 0 is a `CMD` write that does
  not wait: the command then runs in the sequencer, one transition of R162 at a time. -/
  | wr (reg : Byte) (value : Word128)
  /-- `rd REG` (R75). -/
  | rd (reg : Byte)
  /-- `wr INBUF[off..off+len), bytes` (R75). -/
  | wrIn (off : Nat) (bytes : Bytes)
  /-- `rd INBUF[off..off+n)` (R19: INBUF is host read-write). -/
  | rdIn (off n : Nat)
  /-- `rd OUTBUF[off..off+n)` (R75). -/
  | rdOut (off n : Nat)
  /-- The host polls until `BUSY = 0`; it writes nothing (the second half of `cmd`). -/
  | wait
  /-- The host does nothing while the sequencer makes one transition. -/
  | tick
  /-- The reset input `rst` is sampled 1 (R25, R200). -/
  | rst
  deriving DecidableEq, Repr

/-- What a host read returned. -/
inductive HostRead where
  /-- The value of a register, widened with zeros. -/
  | reg (number : Byte) (value : Word128)
  /-- Bytes of INBUF. -/
  | inbuf (off : Nat) (bytes : Bytes)
  /-- Bytes of OUTBUF. -/
  | outbuf (off : Nat) (bytes : Bytes)
  deriving DecidableEq, Repr

end Sys2Proof
end

