-- ==== Sys2Proof/Machine/State.lean ====
section
/-! DEFINITION. The state of the block as plain data: everything spec/10_state.md gives it (R13 to R23, R26), the
latches of the sequencer that R160 and R162 imply, and, last, the model's own fields: the configuration, the bus trace
(R45), the scripted answers and the era of the oracle (R47), the host's queue of actions (R75) and what its reads gave. -/

namespace Sys2Proof.Machine

/-- One of the byte arrays of R40: the listed offsets, strictly rising, with their bytes. An offset that is not listed
has NO value: nothing has written it since reset (R26, U3). -/
abbrev Memory := List Host.Cell

/-- The error names of R170, `DeviceError` with the status byte it records in `DEVSTAT`. -/
inductive Err where
  | timeout | countMismatch | crcMismatch
  | deviceError (status : Byte)
  | invalidInputLength | outputTooSmall | inputTooSmall | invalidParameter | ivMissing
  | paddingError
  deriving DecidableEq, Repr

/-- The sequencer's states (R161), in the order of their values 0 to 15. -/
inductive SeqState where
  | sIdle | sValidate | sCompute | sBlkPre | sWake | sTx | sExec | sRxReq
  | sGoIdle | sParse | sClassify | sBlkPost | sUnpad | sRelease | sFail | sFinish
  deriving DecidableEq, Repr

/-- Where the machine stops with a fault. An error of a command (R170) is NOT one: it is a next state. -/
inductive Fault where
  /-- Raised by a host access to INBUF or OUTBUF at an offset at or above `BUF_CAP`: no such byte exists (R19, R40).
  Safe: the model stops where the spec gives no effect. -/
  | noSuchOffset
  /-- Raised by the sequencer in a state for which R162 lists no row ("Every state not listed for a condition has no
  transition under it"): a latched command that does not belong to the state, or `S_FAIL` without an error. No command
  started from idle reaches it. Safe: nothing is claimed of what follows. -/
  | noTransition
  deriving DecidableEq, Repr

/-- Where the model gives no meaning. -/
inductive Refusal where
  /-- Raised by `exec`'s arm of an instruction that has no meaning yet; no arm does. Safe. -/
  | notModelled (mnemonic : String)
  /-- Raised when a command, or the host, reads a byte of INBUF that the host has not written since reset: the byte has
  no value in the model (R26, U3: refuse). Safe. -/
  | inbufUnwritten
  /-- Raised when the host reads OUTBUF outside its defined part (R26, U3, U9: refuse). Safe. -/
  | outbufUndefined
  /-- Raised by the sequencer when it would read a byte of TXBUF, RXBUF or WORK that has no value; by R26 it never does
  so in a command started from idle. Safe. -/
  | scratchUnwritten
  deriving DecidableEq, Repr

/-- The operand and length registers, owned by the host: no command ever writes one (R14, column "written by
sequencer": never). -/
structure OperandRegs where
  /-- `INLEN`, 16 bits: number of valid bytes in INBUF (R14 no. 4). -/
  inlen : Word16
  /-- `OUTCAP`, 16 bits: the capacity granted in OUTBUF (R14 no. 5). -/
  outcap : Word16
  /-- `P_OPCODE`, 8 bits (R14 no. 8). -/
  pOpcode : Byte
  /-- `P_PARAM1`, 8 bits (R14 no. 9). -/
  pParam1 : Byte
  /-- `P_PARAM2`, 16 bits (R14 no. 10). -/
  pParam2 : Word16
  /-- `P_EXPLEN`, 16 bits (R14 no. 11). -/
  pExplen : Word16
  /-- `P_SLOT`, 8 bits, any byte storable (R14 no. 12, R15). -/
  pSlot : Byte
  /-- `P_KEYIDX`, 8 bits, any byte storable (R14 no. 13, R15). -/
  pKeyidx : Byte
  /-- `P_DIR`, 1 bit: 0 Encrypt, 1 Decrypt (R14 no. 14). -/
  pDir : BitVec 1
  /-- `P_MODE`, 1 bit: 0 ECB, 1 CBC (R14 no. 15). -/
  pMode : BitVec 1
  /-- `P_PAD`, 1 bit: 0 None, 1 PKCS7 (R14 no. 16). -/
  pPad : BitVec 1
  /-- `P_IVPRESENT`, 1 bit (R14 no. 17). -/
  pIvpresent : BitVec 1
  /-- `P_IV`, 128 bits (R14 no. 18). -/
  pIv : Word128
  deriving DecidableEq, Repr

/-- The cipher context (R16), written by a successful CTXSET only; its flag `CTX_VALID` stands in `STATUS`. -/
structure Context where
  /-- `CTX_MODE`, 1 bit (R14 no. 19). -/
  mode : BitVec 1
  /-- `CTX_PAD`, 1 bit (R14 no. 20). -/
  pad : BitVec 1
  /-- `CTX_SLOT`, 8 bits (R14 no. 21). -/
  slot : Byte
  /-- `CTX_KEYIDX`, 8 bits (R14 no. 22). -/
  keyIdx : Byte
  /-- `CTX_IV`, 128 bits (R14 no. 23). -/
  iv : Word128
  deriving DecidableEq, Repr

/-- The state of the machine. -/
structure State where
  /-- The parameters of R6, fixed for a machine: no step changes them (the model's own field, DESIGN CHOICE, log
  entry 3). -/
  cfg : Config
  /-- `STATUS.BUSY`, bit 0 (R13). -/
  busy : Bool
  /-- `STATUS.DONE`, bit 1 (R13). -/
  done : Bool
  /-- `STATUS.ERRF`, bit 2 (R13). -/
  errf : Bool
  /-- `STATUS.CTX_VALID`, bit 3 (R13). -/
  ctxValid : Bool
  /-- `ERR`, 8 bits (R14 no. 2, R17). -/
  err : Byte
  /-- `DEVSTAT`, 8 bits (R14 no. 3, R17). -/
  devstat : Byte
  /-- `OUTLEN`, 16 bits (R14 no. 6, R18). -/
  outlen : Word16
  /-- `CRCOUT`, 16 bits (R14 no. 7, R18). -/
  crcout : Word16
  /-- The host's operand and length registers (R14). -/
  ops : OperandRegs
  /-- The cipher context (R16). -/
  ctx : Context
  /-- `INBUF`, `BUF_CAP` bytes (R19). -/
  inbuf : Memory
  /-- `OUTBUF`, `BUF_CAP` bytes (R19). -/
  outbuf : Memory
  /-- `CRCREG`, 16 bits (R20). -/
  crcreg : Word16
  /-- `TXBUF`, 255 bytes (R21). -/
  txbuf : Memory
  /-- `TXLEN`, 0 to 255 (R21). -/
  txlen : Nat
  /-- `RXBUF`, `RX_CAP` bytes (R22). -/
  rxbuf : Memory
  /-- `RXCNT`, 0 to `RX_CAP` (R22). -/
  rxcnt : Nat
  /-- `ATTEMPTS`, 5 bits, 0 to 20 (R22, R184). -/
  attempts : Nat
  /-- `CV`, 128 bits: the chaining variable (R23). -/
  cv : Word128
  /-- `WORK`, `BUF_CAP + 16` bytes (R23). -/
  work : Memory
  /-- `WORKLEN`, 0 to `BUF_CAP + 16` (R23). -/
  worklen : Nat
  /-- `BLK`: index of the 16-byte block being processed (R12, R23). -/
  blk : Nat
  /-- `SEQ`, 4 bits (R12, R161). -/
  seq : SeqState
  /-- The latched command code (R160: "the command selected by v is latched"; DEDUCED, log entry 6). -/
  cur : Byte
  /-- The error on its way to `S_FAIL` (R162: "`S_FAIL` with E"), a latch of the sequencer (DEDUCED, log
  entry 6). -/
  pend : Option Err
  /-- `plainLen` of R151 on its way from `S_UNPAD` to `S_RELEASE`, a latch of the sequencer (DEDUCED,
  log entry 6). -/
  plainLen : Nat
  /-- The bus trace (R45), oldest event first; kept by the model, not by the hardware (the model's own field,
  log entry 18). -/
  trace : List BusEvent
  /-- Scripted answers to the next chunk requests, the first first: an input of the run (R47; the model's own field,
  DESIGN CHOICE, log entry 4). -/
  answers : List Bytes
  /-- Which unconstrained oracle answers when no answer is scripted; a reset brings a fresh one (R47, U6; the model's
  own field, DESIGN CHOICE, log entry 4). -/
  era : Nat
  /-- The host's actions still to come (R75; the model's own field, DESIGN CHOICE, log entry 2). -/
  hostq : List HostAction
  /-- What the host's reads returned, oldest first (R75; the model's own field, DESIGN CHOICE, log entry 2). -/
  reads : List HostRead
  deriving DecidableEq, Repr

/-- The operand registers after reset: all 0 (R26). -/
def OperandRegs.zero : OperandRegs where
  inlen := 0
  outcap := 0
  pOpcode := 0
  pParam1 := 0
  pParam2 := 0
  pExplen := 0
  pSlot := 0
  pKeyidx := 0
  pDir := 0
  pMode := 0
  pPad := 0
  pIvpresent := 0
  pIv := 0

/-- The context registers after reset: all 0 (R26). -/
def Context.zero : Context where
  mode := 0
  pad := 0
  slot := 0
  keyIdx := 0
  iv := 0

/-- The block after reset (R26), for any configuration. The byte arrays list nothing: reset gives their bytes no
value. -/
def State.resetWith (cfg : Config) : State where
  cfg := cfg
  busy := false
  done := false
  errf := false
  ctxValid := false
  err := 0
  devstat := 0
  outlen := 0
  crcout := 0
  ops := OperandRegs.zero
  ctx := Context.zero
  inbuf := []
  outbuf := []
  crcreg := 0
  txbuf := []
  txlen := 0
  rxbuf := []
  rxcnt := 0
  attempts := 0
  cv := 0
  work := []
  worklen := 0
  blk := 0
  seq := .sIdle
  cur := 0
  pend := none
  plainLen := 0
  trace := []
  answers := []
  era := 0
  hostq := []
  reads := []

/-- The machine right after reset (R26), with the parameters at the values the spec takes (R6). The
zeros are the spec's own decision (R26, D21); those of the fields R26 does not name are the model's (DESIGN CHOICE, log
entries 4, 6, 16). -/
def State.reset : State := State.resetWith Config.taken

end Sys2Proof.Machine
end

