-- ==== Sys2Proof/Machine/Bytes.lean ====
section
/-! DEFINITION. Byte strings and byte arrays: the orders of R48, the byte-wise exclusive or of blocks (R8), and the
reads and writes of the arrays of R40 (`MemRead` and `MemWrite` of R8). -/

namespace Sys2Proof.Machine

/-! ## Orders (R48) -/

/-- `v[7:0]`. -/
def loByte (v : Word16) : Byte := v.extractLsb' 0 8

/-- `v[15:8]`. -/
def hiByte (v : Word16) : Byte := v.extractLsb' 8 8

/-- The two bytes of a u16, low byte first (R48 b, c). -/
def bytesOfWord (v : Word16) : Bytes := [loByte v, hiByte v]

/-- The 16 bytes of a 128-bit register: byte `i` is bits `8i+7 : 8i` (R48 e). -/
def bytesOfIv (v : Word128) : Bytes := (List.range 16).map (fun i => v.extractLsb' (8 * i) 8)

/-- The 128-bit register that holds a block: byte `i` in bits `8i+7 : 8i` (R48 e). -/
def ivOfBytes (bs : Bytes) : Word128 := bs.foldr (fun b acc => (acc <<< 8) ||| b.setWidth 128) 0

/-- `X xor Y` on blocks: byte-wise (R8). -/
def xorBytes (x y : Bytes) : Bytes := List.zipWith (fun a b => a ^^^ b) x y

/-- `rep(v, n)` (R8). -/
def rep (v : Byte) (n : Nat) : Bytes := List.replicate n v

/-- The `q` blocks of a string: block `i` is its bytes `16*i` to `16*i + 15` (R49). -/
def blocksOf (q : Nat) (data : Bytes) : List Bytes := (List.range q).map (fun i => (data.drop (16 * i)).take 16)

/-! ## Byte arrays (R40) -/

/-- The cells of a string stored from an offset on, index 0 at the lowest offset (R48 d). -/
def cellsFrom (off : Nat) : Bytes → Memory
  | [] => []
  | b :: bs => (off, b) :: cellsFrom (off + 1) bs

/-- The byte at an offset; `none` where nothing has written since reset (R26, U3). This is what an unlisted offset
reads as. -/
def Memory.read (m : Memory) (off : Nat) : Option Byte := (m.find? (fun c => c.1 == off)).map (fun c => c.2)

/-- `MemRead(B, off, n)` (R8): the `n` bytes from `off` on, `none` when one of them has no value. -/
def Memory.readBytes (m : Memory) (off : Nat) : Nat → Option Bytes
  | 0 => some []
  | n + 1 => do
    let b ← m.read off
    let bs ← Memory.readBytes m (off + 1) n
    return b :: bs

/-- `MemWrite(B, off, len(bytes), bytes)` (R8): the cells below and above the range stay, those of the range are
replaced. -/
def Memory.writeBytes (m : Memory) (off : Nat) (bytes : Bytes) : Memory :=
  m.filter (fun c => decide (c.1 < off)) ++ cellsFrom off bytes ++
    m.filter (fun c => decide (off + bytes.length ≤ c.1))

/-- The canonical form: offsets strictly rising. (No entry can equal what an unlisted offset reads as, which is no
value.) -/
abbrev Memory.wf (m : Memory) : Prop := m.Pairwise (fun a b => a.1 < b.1)

/-- Every listed offset exists in an array of `cap` bytes (R40). -/
abbrev Memory.within (m : Memory) (cap : Nat) : Prop := ∀ c ∈ m, c.1 < cap

end Sys2Proof.Machine
end

