-- ==== Sys2Proof/Syntax.lean ====
section
/-! DEFINITION. The ten host commands (R70), one constructor per row of spec/opcode_table.json. A command byte has no
fields: every operand stands in a register or a buffer. -/

namespace Sys2Proof

/-- The ten commands of R70. -/
inductive Instr where
  /-- `CRC16`, code `0x01` (R95). -/
  | crc16
  /-- `BUILD`, code `0x02` (R101). -/
  | build
  /-- `PARSE`, code `0x03` (R104). -/
  | parse
  /-- `SEND`, code `0x04` (R111). -/
  | send
  /-- `RECEIVE`, code `0x05` (R114). -/
  | receive
  /-- `CRYPTBLOCK`, code `0x06` (R134). -/
  | cryptblock
  /-- `REQSIZE`, code `0x07` (R141). -/
  | reqsize
  /-- `CTXSET`, code `0x08` (R142). -/
  | ctxset
  /-- `ENCRYPT`, code `0x09` (R147). -/
  | encrypt
  /-- `DECRYPT`, code `0x0A` (R151). -/
  | decrypt
  deriving DecidableEq, Repr

end Sys2Proof
end

