-- ==== Sys2Proof/Machine/Operands.lean ====
section
/-! DEFINITION. The operands of the commands: the enumerations of R72, the operand bytes read from INBUF (R203), the
size policy of R140, and the checks every command makes before any bus activity, in the order of R173. -/

namespace Sys2Proof.Machine

/-- `mode` (R72). -/
inductive Mode where
  | ecb | cbc
  deriving DecidableEq, Repr

/-- `padding` (R72). -/
inductive Padding where
  | noPad | pkcs7
  deriving DecidableEq, Repr

/-- `direction` (R72). -/
inductive Direction where
  | encrypt | decrypt
  deriving DecidableEq, Repr

/-- ECB = 0, CBC = 1 (R72). -/
def modeOfBit (b : BitVec 1) : Mode := if b = 0 then .ecb else .cbc

/-- None = 0, PKCS7 = 1 (R72). -/
def paddingOfBit (b : BitVec 1) : Padding := if b = 0 then .noPad else .pkcs7

/-- Encrypt = 0, Decrypt = 1 (R72). -/
def directionOfBit (b : BitVec 1) : Direction := if b = 0 then .encrypt else .decrypt

/-- The bit of a direction (R72, R68). -/
def bitOfDirection : Direction → Byte
  | .encrypt => 0
  | .decrypt => 1

/-- `MemRead(INBUF, off, n)`: `none` when the host has not written one of the bytes since reset (R26). -/
def readInbuf (off n : Nat) (s : State) : Option Bytes := s.inbuf.readBytes off n

/-- `requiredOutputSize(inputLen, padding)` (R140). -/
def requiredOutputSize (inputLen : Nat) : Padding → Except Err Nat
  | .noPad => if inputLen % 16 = 0 then .ok inputLen else .error .invalidInputLength
  | .pkcs7 => .ok ((inputLen / 16 + 1) * 16)

/-- The error of the first check that fails: a check is the condition under which it fails, with its error (R173, R177:
the first that fails is reported). -/
def firstError : List (Bool × Err) → Option Err
  | [] => none
  | (failed, e) :: rest => if failed then some e else firstError rest

/-- `slot <= 15`, then `keyIndex <= 3` (R131, R146 steps 4 and 5). -/
def keyChecks (slot keyIdx : Byte) : List (Bool × Err) :=
  [(decide (Param.slotMax < slot.toNat), .invalidParameter), (decide (Param.keyIdxMax < keyIdx.toNat), .invalidParameter)]

/-- `INLEN > BUF_CAP or OUTCAP > BUF_CAP` (R173). -/
def capacityExceeded (s : State) : Bool :=
  decide (s.cfg.bufCap < s.ops.inlen.toNat) || decide (s.cfg.bufCap < s.ops.outcap.toNat)

/-- The checks of CRC16 (R95, R173). -/
def validateCrc16 (s : State) : Option Err :=
  firstError [(decide (s.cfg.bufCap < s.ops.inlen.toNat), .invalidParameter)]

/-- The checks of BUILD (R101, R173). -/
def validateBuild (s : State) : Option Err :=
  firstError
    [ (capacityExceeded s, .invalidParameter),
      (decide (s.cfg.maxPayload < s.ops.inlen.toNat), .invalidParameter),
      (decide (s.ops.outcap.toNat < 8 + s.ops.inlen.toNat), .outputTooSmall) ]

/-- The checks of PARSE (R104, R173). -/
def validateParse (s : State) : Option Err :=
  firstError
    [ (decide (s.cfg.rxCap < s.ops.inlen.toNat) || decide (s.cfg.bufCap < s.ops.outcap.toNat), .invalidParameter),
      (decide (3 ≤ s.ops.inlen.toNat) && decide (s.ops.outcap.toNat < s.ops.inlen.toNat - 3), .outputTooSmall) ]

/-- The checks of SEND (R111, R173). -/
def validateSend (s : State) : Option Err :=
  firstError
    [ (decide (s.cfg.bufCap < s.ops.inlen.toNat), .invalidParameter),
      (decide (s.cfg.maxPayload < s.ops.inlen.toNat), .invalidParameter) ]

/-- The checks of RECEIVE (R114, R173). -/
def validateReceive (s : State) : Option Err :=
  firstError
    [ (decide (s.cfg.rxCap < s.ops.pExplen.toNat) || decide (s.cfg.bufCap < s.ops.outcap.toNat), .invalidParameter),
      (decide (3 ≤ s.ops.pExplen.toNat) && decide (s.ops.outcap.toNat < s.ops.pExplen.toNat - 3), .outputTooSmall) ]

/-- The checks of CRYPTBLOCK (R134, R173), those of the slot and the key index among them (DEDUCED, log entry 11). -/
def validateCryptblock (s : State) : Option Err :=
  firstError
    ([ (capacityExceeded s, .invalidParameter),
       (decide (s.ops.inlen.toNat < 16), .inputTooSmall),
       (decide (16 < s.ops.inlen.toNat), .invalidInputLength),
       (decide (s.ops.outcap.toNat < 16), .outputTooSmall) ] ++ keyChecks s.ops.pSlot s.ops.pKeyidx)

/-- The check of a length against the size policy: `InvalidInputLength` where R140 fails. -/
def sizeFails (inputLen : Nat) (p : Padding) : Bool :=
  match requiredOutputSize inputLen p with
  | .ok _ => false
  | .error _ => true

/-- The checks of REQSIZE (R141, R173). -/
def validateReqsize (s : State) : Option Err :=
  firstError
    [ (decide (s.cfg.bufCap < s.ops.inlen.toNat), .invalidParameter),
      (sizeFails s.ops.inlen.toNat (paddingOfBit s.ops.pPad), .invalidInputLength) ]

/-- The check of CTXSET (R142, R173). -/
def validateCtxset (s : State) : Option Err :=
  firstError [(decide (modeOfBit s.ops.pMode = .cbc) && decide (s.ops.pIvpresent = 0), .ivMissing)]

/-- Is the granted capacity below the required size (R146 step 3)? -/
def outputTooSmallFor (outcap inputLen : Nat) (p : Padding) : Bool :=
  match requiredOutputSize inputLen p with
  | .ok total => decide (outcap < total)
  | .error _ => false

/-- The checks of ENCRYPT (R146, R147, R173). -/
def validateEncrypt (s : State) : Option Err :=
  firstError
    ([ (capacityExceeded s, .invalidParameter),
       (!s.ctxValid, .invalidParameter),
       (sizeFails s.ops.inlen.toNat (paddingOfBit s.ctx.pad), .invalidInputLength),
       (outputTooSmallFor s.ops.outcap.toNat s.ops.inlen.toNat (paddingOfBit s.ctx.pad), .outputTooSmall) ] ++
      keyChecks s.ctx.slot s.ctx.keyIdx)

/-- The checks of DECRYPT (R146, R151, R173). -/
def validateDecrypt (s : State) : Option Err :=
  firstError
    ([ (capacityExceeded s, .invalidParameter),
       (!s.ctxValid, .invalidParameter),
       (decide (s.ops.inlen.toNat % 16 ≠ 0), .invalidInputLength),
       (decide (s.ops.outcap.toNat < s.ops.inlen.toNat), .outputTooSmall) ] ++
      keyChecks s.ctx.slot s.ctx.keyIdx)

/-- The table of R173: the error of the first check of a command that fails, `none` when all pass. -/
def validate : Instr → State → Option Err
  | .crc16 => validateCrc16
  | .build => validateBuild
  | .parse => validateParse
  | .send => validateSend
  | .receive => validateReceive
  | .cryptblock => validateCryptblock
  | .reqsize => validateReqsize
  | .ctxset => validateCtxset
  | .encrypt => validateEncrypt
  | .decrypt => validateDecrypt

end Sys2Proof.Machine
end

