-- ==== Sys2Proof/Decode.lean ====
section
/-! DEFINITION. The command byte (R70): the decoder, total on any bytes and refusing a reserved code by name (R71), and
after it the encoder. The code is the whole byte; there are no fields inside it. -/

namespace Sys2Proof

/-- Why bytes are no command. -/
inductive DecodeError where
  /-- `0x00` and `0x0B` to `0xFF` name no command (R71). -/
  | reservedCode (code : Byte)
  /-- There is no byte at all. -/
  | noByte
  deriving DecidableEq, Repr

/-- One row of the code table of R70: a byte is the row's command when, masked, it equals the row's pattern. -/
structure CodeRow where
  mask : Byte
  pattern : Byte
  instr : Instr
  deriving DecidableEq, Repr

/-- The table of R70. -/
def codeTable : List CodeRow :=
  [ ⟨0xFF, 0x01, .crc16⟩, ⟨0xFF, 0x02, .build⟩, ⟨0xFF, 0x03, .parse⟩, ⟨0xFF, 0x04, .send⟩, ⟨0xFF, 0x05, .receive⟩,
    ⟨0xFF, 0x06, .cryptblock⟩, ⟨0xFF, 0x07, .reqsize⟩, ⟨0xFF, 0x08, .ctxset⟩, ⟨0xFF, 0x09, .encrypt⟩,
    ⟨0xFF, 0x0A, .decrypt⟩ ]

/-- The command a byte written to `CMD` names (R70), or its refusal by name (R71). -/
def decode (v : Byte) : Except DecodeError Instr :=
  match codeTable.find? (fun r => v &&& r.mask == r.pattern) with
  | some r => .ok r.instr
  | none => .error (.reservedCode v)

/-- The first command of a byte string, with the bytes after it. -/
def decodeBytes : Bytes → Except DecodeError (Instr × Bytes)
  | [] => .error .noByte
  | v :: rest => (decode v).map (fun i => (i, rest))

/-- The bytes of a number of `nbits` bits, least significant byte first. -/
def wordBytes (nbits w : Nat) : Bytes :=
  (List.range ((nbits + 7) / 8)).map (fun i => BitVec.ofNat 8 (w / 2 ^ (8 * i)))

/-- What the decoder reads from an opcode-table word: one byte, the whole of which is the code (R70). -/
def decodeTableWord (nbits w : Nat) : Option Instr :=
  match decodeBytes (wordBytes nbits w) with
  | .ok (i, []) => some i
  | _ => none

/-- The code of a command (R70). -/
def encode : Instr → Byte
  | .crc16 => 0x01
  | .build => 0x02
  | .parse => 0x03
  | .send => 0x04
  | .receive => 0x05
  | .cryptblock => 0x06
  | .reqsize => 0x07
  | .ctxset => 0x08
  | .encrypt => 0x09
  | .decrypt => 0x0A

end Sys2Proof
end

