-- ==== Sys2Proof/Machine/Flags.lean ====
section
/-! DEFINITION. The status register (R13), the error codes (R170), and the encoding of the sequencer's state (R161). -/

namespace Sys2Proof.Machine

/-- The value of `STATUS` (R13): bit 0 `BUSY`, bit 1 `DONE`, bit 2 `ERRF`, bit 3 `CTX_VALID`, bits 7:4 zero. -/
def statusByte (s : State) : Byte :=
  (BitVec.ofBool s.busy).setWidth 8 ||| ((BitVec.ofBool s.done).setWidth 8 <<< 1) |||
    ((BitVec.ofBool s.errf).setWidth 8 <<< 2) ||| ((BitVec.ofBool s.ctxValid).setWidth 8 <<< 3)

/-- The code `ERR` holds for an error (R170). -/
def errCode : Err → Byte
  | .timeout => 0x01
  | .countMismatch => 0x02
  | .crcMismatch => 0x03
  | .deviceError _ => 0x10
  | .invalidInputLength => 0x20
  | .outputTooSmall => 0x21
  | .inputTooSmall => 0x22
  | .invalidParameter => 0x23
  | .ivMissing => 0x24
  | .paddingError => 0x30

/-- What `DEVSTAT` holds for an error: the status byte of a `DeviceError`, else 0 (R17, R176). -/
def errDevstat : Err → Byte
  | .deviceError status => status
  | .timeout | .countMismatch | .crcMismatch | .invalidInputLength | .outputTooSmall | .inputTooSmall
  | .invalidParameter | .ivMissing | .paddingError => 0

/-- The eleven values of `ERR` (R170). -/
def errCodes : List Byte := [0x00, 0x01, 0x02, 0x03, 0x10, 0x20, 0x21, 0x22, 0x23, 0x24, 0x30]

/-- The 4-bit value of `SEQ` (R161). -/
def seqCode : SeqState → BitVec 4
  | .sIdle => 0
  | .sValidate => 1
  | .sCompute => 2
  | .sBlkPre => 3
  | .sWake => 4
  | .sTx => 5
  | .sExec => 6
  | .sRxReq => 7
  | .sGoIdle => 8
  | .sParse => 9
  | .sClassify => 10
  | .sBlkPost => 11
  | .sUnpad => 12
  | .sRelease => 13
  | .sFail => 14
  | .sFinish => 15

end Sys2Proof.Machine
end

