-- ==== Sys2Proof/Machine/Ops.lean ====
section
/-! DEFINITION. The shared operations on the state: the start of a command (R160), the five bus primitives (R44),
the release of a result (R42), and the two completions (R166): with a success, and with an error, the block's way of
taking an exception (R176). -/

namespace Sys2Proof.Machine

/-! ## The bus (R43 to R47) -/

/-- `BusWake()` (R44). -/
def busWake (s : State) : State := { s with trace := s.trace ++ [.wake] }

/-- `BusWrite(f)` (R44, R46): all the bytes in one event. -/
def busWrite (f : Bytes) (s : State) : State := { s with trace := s.trace ++ [.write f] }

/-- `BusExecWait()` (R44). -/
def busExecWait (s : State) : State := { s with trace := s.trace ++ [.execWait] }

/-- `BusIdle()` (R44). -/
def busIdle (s : State) : State := { s with trace := s.trace ++ [.idle] }

/-- The oracle's answer to `BusRead(n)` (R47): the next scripted answer, or, when none is scripted, the free value;
never more than `n` bytes (DESIGN CHOICE, log entry 4). -/
def busAnswer (n : Nat) (s : State) : Bytes :=
  match s.answers with
  | a :: _ => a.take n
  | [] => (Param.deviceAnswer s.era s.trace n).take n

/-- The effect of `BusRead(n)` on the record of the bus: the answer is consumed (R50) and the event appended (R45). -/
def busReadEffect (n : Nat) (s : State) : State :=
  { s with answers := s.answers.drop 1, trace := s.trace ++ [.read n (busAnswer n s)] }

/-! ## The CRC register and the transport buffers as state -/

/-- `CRCREG` is written by every `crc16` (R20). -/
def setCrcreg (r : Word16) (s : State) : State := { s with crcreg := r }

/-- `TXBUF[0..len f) <- f; TXLEN <- len f` (R100). -/
def setTx (f : Bytes) (s : State) : State := { s with txbuf := s.txbuf.writeBytes 0 f, txlen := f.length }

/-- `RXCNT <- 0; ATTEMPTS <- 0`: the start of every `receive` (R22, R113). -/
def rxStart (s : State) : State := { s with rxcnt := 0, attempts := 0 }

/-- One pass of the loop of R113 after the answer `c`: count the request, append the bytes at `RXCNT`. -/
def rxStore (c : Bytes) (s : State) : State :=
  { s with rxbuf := s.rxbuf.writeBytes s.rxcnt c, rxcnt := s.rxcnt + c.length, attempts := s.attempts + 1 }

/-- `RXBUF[0..len raw) <- raw; RXCNT <- len raw`: how PARSE loads the receive buffer (R104). -/
def rxLoad (raw : Bytes) (s : State) : State := { s with rxbuf := s.rxbuf.writeBytes 0 raw, rxcnt := raw.length }

/-! ## Start and completion -/

/-- The start of a command (R160), when `v` is written to `CMD` while `BUSY = 0`. The context and its flag are not
touched. -/
def startCommand (v : Byte) (s : State) : State :=
  { s with
    busy := true, done := false, errf := false, err := 0, devstat := 0, outlen := 0, crcout := 0, blk := 0,
    cur := v, seq := .sValidate, pend := none, plainLen := 0 }

/-- Does the latched command own `WORK` and `CV` (R23: they are written during ENCRYPT and DECRYPT only)? -/
def usesWork (v : Byte) : Bool := v == encode .encrypt || v == encode .decrypt

/-- `WORK <- zeros; WORKLEN <- 0; CV <- zeros` (R23). -/
def clearWork (s : State) : State :=
  { s with work := s.work.writeBytes 0 (rep 0 (s.cfg.bufCap + 16)), worklen := 0, cv := 0 }

/-- `DONE <- 1; BUSY <- 0; SEQ <- S_IDLE` (R166, R176). -/
def markDone (s : State) : State := { s with busy := false, done := true, seq := .sIdle, pend := none, plainLen := 0 }

/-- `S_FINISH` (R161): after ENCRYPT and DECRYPT, successful or not, `WORK`, `WORKLEN` and `CV` are cleared (R23); then
`DONE` is set and `BUSY` cleared in the same step (R166). -/
def finishCommand (s : State) : State := markDone (if usesWork s.cur then clearWork s else s)

/-- What `S_FAIL` writes (R176): the error's code, `ERRF`, `DEVSTAT`; `OUTLEN` and `CRCOUT` are 0; OUTBUF is not
written. -/
def writeError (e : Err) (s : State) : State :=
  { s with err := errCode e, errf := true, devstat := errDevstat e, outlen := 0, crcout := 0 }

/-- ERROR COMPLETION (R176), the one way a command takes an error: the block's analogue of taking an exception. There is
no return from it: the block is then idle exactly as after a success (R180). -/
def errorCompletion (e : Err) (s : State) : State := finishCommand (writeError e s)

/-- The release of a result (R42): `OUTBUF[0..n)` is written and `OUTLEN` is `n`. -/
def releaseOut (out : Bytes) (s : State) : State :=
  { s with outbuf := s.outbuf.writeBytes 0 out, outlen := BitVec.ofNat 16 out.length }

/-- `OUTLEN <- n` without a write of OUTBUF (R18: REQSIZE). -/
def setOutlen (n : Nat) (s : State) : State := { s with outlen := BitVec.ofNat 16 n }

/-- `CRCOUT <- r` (R18: CRC16 only). -/
def setCrcout (r : Word16) (s : State) : State := { s with crcout := r }

/-- Set `STATUS.CTX_VALID` (R13, R142). -/
def setCtxValid (v : Bool) (s : State) : State := { s with ctxValid := v }

/-- Write the context registers and make them valid (R142). -/
def setContext (c : Context) (s : State) : State := { s with ctx := c, ctxValid := true }

end Sys2Proof.Machine
end

