-- ==== Sys2Proof/Machine/Crc.lean ====
section
/-! DEFINITION. The CRC-16 engine (spec/40_crc16.md): the bit step, the sub-operation `crc16`, the table-driven form of
R92, and the command CRC16. The bit-serial form is the definition (R92). -/

namespace Sys2Proof.Machine

/-- The bit step (R91): `crc_bit` is read before the shift, the exclusive or is applied after it. -/
def crcStep (r : Word16) (d : Bool) : Word16 :=
  if d != r.getLsbD 15 then (r <<< 1) ^^^ Param.crcPoly else r <<< 1

/-- The byte step (R92): the eight bits, bit 0 first. -/
def crcByte (r : Word16) (b : Byte) : Word16 := (List.range 8).foldl (fun acc i => crcStep acc (b.getLsbD i)) r

/-- The final `CRCREG` of `crc16(data)` (R90, R92): the fold from `CRC_INIT`, in index order. -/
def crcReg (data : Bytes) : Word16 := data.foldl crcByte Param.crcInit

/-- `crc16(data)` (R90, R93): the two CRC bytes, the low byte of the register first. -/
def crc16 (data : Bytes) : Bytes := bytesOfWord (crcReg data)

/-! ## The table-driven form (R92), which agrees with `crcByte` -/

/-- `rev8(b)`: bit `i` is bit `7 - i` of `b` (R92). -/
def rev8 (b : Byte) : Byte :=
  (List.range 8).foldl (fun acc i => (acc <<< 1) ||| (BitVec.ofBool (b.getLsbD i)).setWidth 8) 0

/-- One step of the table's making (R92), the test made before the shift. -/
def tableStep (t : Word16) : Word16 := if t.getLsbD 15 then (t <<< 1) ^^^ Param.crcPoly else t <<< 1

/-- `T[x]` (R92). -/
def crcTable (x : Byte) : Word16 := (List.range 8).foldl (fun t _ => tableStep t) (x.setWidth 16 <<< 8)

/-- The byte step by table lookup (R92). -/
def crcByteByTable (r : Word16) (b : Byte) : Word16 := (r <<< 8) ^^^ crcTable (hiByte r ^^^ rev8 b)

/-! ## The command -/

/-- `CRC16` (R95). -/
def execCrc16 (s0 : State) : Host.Outcome State Fault Refusal :=
  let s := startCommand (encode .crc16) s0
  match validateCrc16 s with
  | some e => .next (errorCompletion e s)
  | none =>
    match readInbuf 0 s.ops.inlen.toNat s with
    | none => .refused .inbufUnwritten
    | some data =>
      let r := crcReg data
      .next (finishCommand (setCrcout ((loByte r).setWidth 16 ||| ((hiByte r).setWidth 16 <<< 8)) (setCrcreg r s)))

end Sys2Proof.Machine
end

