-- ==== Sys2Proof/Machine/Frame.lean ====
section
/-! DEFINITION. Frame builder and parser (spec/41_frame.md) over the formats of R60 to R65, and the commands BUILD and
PARSE. -/

namespace Sys2Proof.Machine

/-- The bytes of a command frame from the count through the payload (R60, R61, R63). -/
def frameBody (cfg : Config) (opcode param1 : Byte) (param2 : Word16) (payload : Bytes) : Bytes :=
  [BitVec.ofNat 8 (6 + payload.length + cfg.countSelf.toNat), opcode, param1] ++ bytesOfWord param2 ++ payload

/-- The command frame of R60: the marker, the body, and the CRC of the body (R62). -/
def commandFrame (cfg : Config) (opcode param1 : Byte) (param2 : Word16) (payload : Bytes) : Bytes :=
  [cfg.wordAddrCmd] ++ frameBody cfg opcode param1 param2 payload ++ crc16 (frameBody cfg opcode param1 param2 payload)

/-- The effect of a successful `buildCommandFrame` on the hidden state: `CRCREG`, `TXBUF`, `TXLEN` (R100). -/
def storeFrame (opcode param1 : Byte) (param2 : Word16) (payload : Bytes) (s : State) : State :=
  setTx (commandFrame s.cfg opcode param1 param2 payload)
    (setCrcreg (crcReg (frameBody s.cfg opcode param1 param2 payload)) s)

/-- `buildCommandFrame` (R100): the frame, also left in `TXBUF`, or `InvalidParameter` for a payload above
`MAX_PAYLOAD`. -/
def buildCommandFrame (opcode param1 : Byte) (param2 : Word16) (payload : Bytes) (s : State) :
    Except Err Bytes × State :=
  if s.cfg.maxPayload < payload.length then (.error .invalidParameter, s)
  else (.ok (commandFrame s.cfg opcode param1 param2 payload), storeFrame opcode param1 param2 payload s)

/-- `BUILD` (R101). -/
def execBuild (s0 : State) : Host.Outcome State Fault Refusal :=
  let s := startCommand (encode .build) s0
  match validateBuild s with
  | some e => .next (errorCompletion e s)
  | none =>
    match readInbuf 0 s.ops.inlen.toNat s with
    | none => .refused .inbufUnwritten
    | some payload =>
      match buildCommandFrame s.ops.pOpcode s.ops.pParam1 s.ops.pParam2 payload s with
      | (.error e, t) => .next (errorCompletion e t)
      | (.ok f, t) => .next (finishCommand (releaseOut f t))

/-- Is the first byte the count of a response of this length (R65: `raw[0] = n - 1 + COUNT_SELF`), and are there at
least 3 bytes (R103)? -/
def countOk (cfg : Config) (raw : Bytes) : Bool :=
  match raw with
  | [] => false
  | count :: _ => decide (3 ≤ raw.length) && decide (count.toNat = raw.length - 1 + cfg.countSelf.toNat)

/-- `parseResponse(raw)` (R103): count, then CRC, then the payload between them. -/
def parseResponse (cfg : Config) (raw : Bytes) : Except Err Bytes :=
  if countOk cfg raw = false then .error .countMismatch
  else if raw.drop (raw.length - 2) ≠ crc16 (raw.take (raw.length - 2)) then .error .crcMismatch
  else .ok ((raw.take (raw.length - 2)).drop 1)

/-- The effect of `parseResponse` on the hidden state: `CRCREG`, when the count is right and the CRC is computed
(R103, R20; DEDUCED, log entry 8). -/
def parseEffect (raw : Bytes) (s : State) : State :=
  if countOk s.cfg raw then setCrcreg (crcReg (raw.take (raw.length - 2))) s else s

/-- The response frame of a payload (R106); the block never builds one, the function is for claims and tests. -/
def respFrame (cfg : Config) (p : Bytes) : Bytes :=
  let body := [BitVec.ofNat 8 (p.length + 2 + cfg.countSelf.toNat)] ++ p
  body ++ crc16 body

/-- `PARSE` (R104). -/
def execParse (s0 : State) : Host.Outcome State Fault Refusal :=
  let s := startCommand (encode .parse) s0
  match validateParse s with
  | some e => .next (errorCompletion e s)
  | none =>
    match readInbuf 0 s.ops.inlen.toNat s with
    | none => .refused .inbufUnwritten
    | some raw =>
      let t := parseEffect raw (rxLoad raw s)
      match parseResponse s.cfg raw with
      | .error e => .next (errorCompletion e t)
      | .ok p => .next (finishCommand (releaseOut p t))

end Sys2Proof.Machine
end

