-- ==== Sys2Proof/Machine/Transport.lean ====
section
/-! DEFINITION. Chunked transport (spec/42_transport.md): `send`, `receive` with its budget of 20 chunk requests, and
the commands SEND and RECEIVE. -/

namespace Sys2Proof.Machine

/-- `send` (R110): build the frame, wake the device, write the frame in one transaction. -/
def send (opcode param1 : Byte) (param2 : Word16) (payload : Bytes) (s : State) : Except Err Unit × State :=
  match buildCommandFrame opcode param1 param2 payload s with
  | (.error e, t) => (.error e, t)
  | (.ok f, t) => (.ok (), busWrite f (busWake t))

/-- `SEND` (R111). -/
def execSend (s0 : State) : Host.Outcome State Fault Refusal :=
  let s := startCommand (encode .send) s0
  match validateSend s with
  | some e => .next (errorCompletion e s)
  | none =>
    match readInbuf 0 s.ops.inlen.toNat s with
    | none => .refused .inbufUnwritten
    | some payload =>
      match send s.ops.pOpcode s.ops.pParam1 s.ops.pParam2 payload s with
      | (.error e, t) => .next (errorCompletion e t)
      | (.ok _, t) => .next (finishCommand (setOutlen 0 t))

/-- The size of the next chunk request (R69): `min(32, expectedLength - RXCNT)`. -/
def chunkSize (expected rxcnt : Nat) : Nat := min Param.chunkMax (expected - rxcnt)

/-- One pass of the loop of R113: one `BusRead` and the storing of its answer. -/
def rxRequest (expected : Nat) (s : State) : State :=
  let n := chunkSize expected s.rxcnt
  rxStore (busAnswer n s) (busReadEffect n s)

/-- The loop of R113 with `fuel` requests left in the budget: `got` is `RXBUF[0..RXCNT)`. The test is made before each
request (R116). -/
def rxLoop (expected : Nat) : Nat → Bytes → State → Bytes × State
  | 0, got, s => (got, s)
  | fuel + 1, got, s =>
    if s.rxcnt < expected then
      rxLoop expected fuel (got ++ busAnswer (chunkSize expected s.rxcnt) s) (rxRequest expected s)
    else (got, s)

/-- The bytes collected and the state after the loop and the idle transition (R113, R118). -/
def collect (expected : Nat) (s : State) : Bytes × State :=
  let r := rxLoop expected Param.retryBudget [] (rxStart s)
  (r.1, busIdle r.2)

/-- What a collected response comes to (R113, R117): `Timeout` when bytes are missing or there are none, else what the
parser says. -/
def receiveOutcome (cfg : Config) (expected : Nat) (raw : Bytes) : Except Err Bytes :=
  if raw.length < expected ∨ raw.length = 0 then .error .timeout else parseResponse cfg raw

/-- The effect of the parse, if it takes place, on the hidden state. -/
def receiveEffect (expected : Nat) (raw : Bytes) (s : State) : State :=
  if raw.length < expected ∨ raw.length = 0 then s else parseEffect raw s

/-- `receive(expectedLength)` (R113). -/
def receive (expected : Nat) (s : State) : Except Err Bytes × State :=
  let r := collect expected s
  (receiveOutcome s.cfg expected r.1, receiveEffect expected r.1 r.2)

/-- `RECEIVE` (R114). -/
def execReceive (s0 : State) : Host.Outcome State Fault Refusal :=
  let s := startCommand (encode .receive) s0
  match validateReceive s with
  | some e => .next (errorCompletion e s)
  | none =>
    match receive s.ops.pExplen.toNat s with
    | (.error e, t) => .next (errorCompletion e t)
    | (.ok p, t) => .next (finishCommand (releaseOut p t))

end Sys2Proof.Machine
end

