-- ==== Sys2Proof/Machine/CryptBlock.lean ====
section
/-! DEFINITION. The single-block crypto primitive (spec/43_cryptblock.md): the mode byte, the status frame, `cryptBlock`
and the command CRYPTBLOCK. The block never computes AES: the device does. -/

namespace Sys2Proof.Machine

/-- The mode byte (R68): `(keyIndex << 6) | direction`. -/
def modeByte (keyIdx : Byte) (dir : Direction) : Byte := (keyIdx <<< 6) ||| bitOfDirection dir

/-- Does the received string begin with the count of a 4-byte response (R133, R66)? -/
def statusCountOk (cfg : Config) (b : Bytes) : Bool :=
  decide (4 ≤ b.length) && decide ((b.getD 0 0).toNat = 3 + cfg.countSelf.toNat)

/-- `isStatusFrame(b)` (R133): at least 4 bytes, the count of a 4-byte response frame, and its CRC is good. -/
def isStatusFrame (cfg : Config) (b : Bytes) : Bool :=
  statusCountOk cfg b && decide ((b.drop 2).take 2 = crc16 (b.take 2))

/-- The error reported for a failed `receive(19)` (R133): `DeviceError` with the status byte when the bytes received
begin with a status frame whose status is not 0, else the error of the receive. -/
def classify (cfg : Config) (raw : Bytes) (e : Err) : Err :=
  if isStatusFrame cfg raw = true ∧ raw.getD 1 0 ≠ 0 then .deviceError (raw.getD 1 0) else e

/-- The effect of the classification on the hidden state: `CRCREG`, when the CRC of the status frame is computed
(R133, R20; DEDUCED, log entry 8). -/
def classifyEffect (raw : Bytes) (s : State) : State :=
  if statusCountOk s.cfg raw then setCrcreg (crcReg (raw.take 2)) s else s

/-- `cryptBlock(input, slot, keyIndex, direction)` (R130 to R133): validation, one `send`, one `BusExecWait`, one
`receive(19)`. -/
def cryptBlock (input : Bytes) (slot keyIdx : Byte) (dir : Direction) (s : State) : Except Err Bytes × State :=
  match firstError (keyChecks slot keyIdx) with
  | some e => (.error e, s)
  | none =>
    match send s.cfg.aesOpcode (modeByte keyIdx dir) (slot.setWidth 16) input s with
    | (.error e, t) => (.error e, t)
    | (.ok _, t) =>
      let r := collect Param.cryptRespLen (busExecWait t)
      let u := receiveEffect Param.cryptRespLen r.1 r.2
      match receiveOutcome s.cfg Param.cryptRespLen r.1 with
      | .ok p => (.ok p, u)
      | .error e => (.error (classify s.cfg r.1 e), classifyEffect r.1 u)

/-- `CRYPTBLOCK` (R134). -/
def execCryptblock (s0 : State) : Host.Outcome State Fault Refusal :=
  let s := startCommand (encode .cryptblock) s0
  match validateCryptblock s with
  | some e => .next (errorCompletion e s)
  | none =>
    match readInbuf 0 16 s with
    | none => .refused .inbufUnwritten
    | some x =>
      match cryptBlock x s.ops.pSlot s.ops.pKeyidx (directionOfBit s.ops.pDir) s with
      | (.error e, t) => .next (errorCompletion e t)
      | (.ok p, t) => .next (finishCommand (releaseOut p t))

end Sys2Proof.Machine
end

