-- ==== Sys2Proof/Machine/CipherMode.lean ====
section
/-! DEFINITION. The cipher-mode engine (spec/44_cipher_mode.md): PKCS#7, the two chaining modes, and the commands
REQSIZE, CTXSET, ENCRYPT and DECRYPT. -/

namespace Sys2Proof.Machine

/-! ## Size policy and context -/

/-- `REQSIZE` (R141): the padding is the operand `P_PAD`, not `CTX_PAD`. -/
def execReqsize (s0 : State) : Host.Outcome State Fault Refusal :=
  let s := startCommand (encode .reqsize) s0
  match validateReqsize s with
  | some e => .next (errorCompletion e s)
  | none =>
    match requiredOutputSize s.ops.inlen.toNat (paddingOfBit s.ops.pPad) with
    | .error e => .next (errorCompletion e s)
    | .ok n => .next (finishCommand (setOutlen n s))

/-- The context CTXSET creates from the operand registers (R142): without an IV, 16 bytes of 0. -/
def newContext (o : OperandRegs) : Context where
  mode := o.pMode
  pad := o.pPad
  slot := o.pSlot
  keyIdx := o.pKeyidx
  iv := if o.pIvpresent = 1 then o.pIv else 0

/-- `CTXSET` (R142): a failed creation clears `CTX_VALID` and leaves the other context registers. -/
def execCtxset (s0 : State) : Host.Outcome State Fault Refusal :=
  let s := startCommand (encode .ctxset) s0
  match validateCtxset s with
  | some e => .next (errorCompletion e (setCtxValid false s))
  | none => .next (finishCommand (setOutlen 0 (setContext (newContext s.ops) s)))

/-! ## PKCS#7 (R144, R145) -/

/-- The `k` bytes of value `k` that ENCRYPT appends to `n` bytes of plaintext to reach `total` (R144, R147). -/
def padBytes (n total : Nat) : Bytes := rep (BitVec.ofNat 8 (total - n)) (total - n)

/-- `pad7(pt)` (R144). -/
def pad7 (pt : Bytes) : Bytes := pt ++ padBytes pt.length ((pt.length / 16 + 1) * 16)

/-- `unpad7(d)` (R145): the uniform last-byte-value rule. -/
def unpad7 (d : Bytes) : Except Err Bytes :=
  match d.getLast? with
  | none => .error .paddingError
  | some p =>
    if p.toNat = 0 ∨ Param.padMax < p.toNat then .error .paddingError
    else if (d.drop (d.length - p.toNat)).all (fun b => b == p) then .ok (d.take (d.length - p.toNat))
    else .error .paddingError

/-! ## Encryption (R147 to R150) -/

/-- The padded input of ENCRYPT (R147 step 2). -/
def paddedInput (p : Padding) (total : Nat) (data : Bytes) : Bytes :=
  match p with
  | .noPad => data
  | .pkcs7 => data ++ padBytes data.length total

/-- `WORK[0..len data) <- data; WORKLEN <- len data; if CBC: CV <- CTX_IV` (R147 step 2). -/
def loadWork (data : Bytes) (s : State) : State :=
  { s with
    work := s.work.writeBytes 0 data, worklen := data.length,
    cv := match modeOfBit s.ctx.mode with
      | .ecb => s.cv
      | .cbc => s.ctx.iv }

/-- What is sent for a plaintext block (R148, R149): the block, in CBC exclusive-ored with the chaining variable. -/
def encInput (b : Bytes) (s : State) : Bytes :=
  match modeOfBit s.ctx.mode with
  | .ecb => b
  | .cbc => xorBytes b (bytesOfIv s.cv)

/-- After block `BLK` came back as `c` (R147 step 3): it replaces the block in WORK, in CBC it becomes the chaining
variable, and `BLK` advances (R161; log entry 7). -/
def encStore (c : Bytes) (s : State) : State :=
  { s with
    work := s.work.writeBytes (16 * s.blk) c, blk := s.blk + 1,
    cv := match modeOfBit s.ctx.mode with
      | .ecb => s.cv
      | .cbc => ivOfBytes c }

/-- The block loop of ENCRYPT (R147 step 3, R150) over the blocks still to be sent: the ciphertext, or the error of the
first block that failed. -/
def encBlocks : List Bytes → State → Except Err Bytes × State
  | [], s => (.ok [], s)
  | b :: rest, s =>
    match cryptBlock (encInput b s) s.ctx.slot s.ctx.keyIdx .encrypt s with
    | (.error e, t) => (.error e, t)
    | (.ok c, t) =>
      match encBlocks rest (encStore c t) with
      | (.ok cs, u) => (.ok (c ++ cs), u)
      | (.error e, u) => (.error e, u)

/-- `ENCRYPT` (R147). -/
def execEncrypt (s0 : State) : Host.Outcome State Fault Refusal :=
  let s := startCommand (encode .encrypt) s0
  match validateEncrypt s with
  | some e => .next (errorCompletion e s)
  | none =>
    match requiredOutputSize s.ops.inlen.toNat (paddingOfBit s.ctx.pad) with
    | .error e => .next (errorCompletion e s)
    | .ok total =>
      match readInbuf 0 s.ops.inlen.toNat s with
      | none => .refused .inbufUnwritten
      | some data =>
        let padded := paddedInput (paddingOfBit s.ctx.pad) total data
        match encBlocks (blocksOf (total / 16) padded) (loadWork padded s) with
        | (.error e, t) => .next (errorCompletion e t)
        | (.ok out, t) => .next (finishCommand (releaseOut out t))

/-! ## Decryption (R151 to R153) -/

/-- `if CBC: CV <- CTX_IV` (R151 step 2). -/
def loadIv (s : State) : State :=
  { s with
    cv := match modeOfBit s.ctx.mode with
      | .ecb => s.cv
      | .cbc => s.ctx.iv }

/-- The plaintext block of a decrypted block `d` (R152, R153): in CBC exclusive-ored with the chaining variable. -/
def decOutput (d : Bytes) (s : State) : Bytes :=
  match modeOfBit s.ctx.mode with
  | .ecb => d
  | .cbc => xorBytes d (bytesOfIv s.cv)

/-- After block `BLK`, read as `c`, came back as `d` (R151 step 2): the plaintext block goes to WORK, in CBC the
chaining variable becomes `c`, the block as read from INBUF (R153), and `BLK` advances (R161; log entry 7). -/
def decStore (c d : Bytes) (s : State) : State :=
  { s with
    work := s.work.writeBytes (16 * s.blk) (decOutput d s), blk := s.blk + 1,
    cv := match modeOfBit s.ctx.mode with
      | .ecb => s.cv
      | .cbc => ivOfBytes c }

/-- How the block loop of DECRYPT ends. -/
inductive DecResult where
  /-- Every block was decrypted: the bytes of WORK. -/
  | done (plain : Bytes) (s : State)
  /-- A block failed (R150). -/
  | failed (e : Err) (s : State)
  /-- A ciphertext byte has no value (R26). -/
  | unwritten

/-- The block loop of DECRYPT (R151 step 2) with `n` blocks still to go; `got` is what stands in WORK. -/
def decBlocks : Nat → Bytes → State → DecResult
  | 0, got, s => .done got s
  | n + 1, got, s =>
    match readInbuf (16 * s.blk) 16 s with
    | none => .unwritten
    | some c =>
      match cryptBlock c s.ctx.slot s.ctx.keyIdx .decrypt s with
      | (.error e, t) => .failed e t
      | (.ok d, t) => decBlocks n (got ++ decOutput d t) (decStore c d t)

/-- `WORKLEN <- n` (R151, after the loop). -/
def setWorklen (n : Nat) (s : State) : State := { s with worklen := n }

/-- Step 3 or step 4 of R151: with PKCS7 the padding is checked and removed, with None nothing is. -/
def removePadding (p : Padding) (d : Bytes) : Except Err Bytes :=
  match p with
  | .noPad => .ok d
  | .pkcs7 => unpad7 d

/-- `DECRYPT` (R151). -/
def execDecrypt (s0 : State) : Host.Outcome State Fault Refusal :=
  let s := startCommand (encode .decrypt) s0
  match validateDecrypt s with
  | some e => .next (errorCompletion e s)
  | none =>
    match decBlocks (s.ops.inlen.toNat / 16) [] (loadIv s) with
    | .unwritten => .refused .inbufUnwritten
    | .failed e t => .next (errorCompletion e t)
    | .done d t =>
      match removePadding (paddingOfBit s.ctx.pad) d with
      | .error e => .next (errorCompletion e (setWorklen d.length t))
      | .ok out => .next (finishCommand (releaseOut out (setWorklen d.length t)))

end Sys2Proof.Machine
end

