-- ==== Sys2Proof/Machine/Dispatch.lean ====
section
/-! DEFINITION. One arm per command: the effect of a `CMD` write that starts it, from the start to its completion, as one
atomic step (R10). -/

namespace Sys2Proof.Machine

def exec (i : Instr) (s : State) : Host.Outcome State Fault Refusal :=
  match i with
  | .crc16 => Sys2Proof.Machine.execCrc16 s
  | .build => Sys2Proof.Machine.execBuild s
  | .parse => Sys2Proof.Machine.execParse s
  | .send => Sys2Proof.Machine.execSend s
  | .receive => Sys2Proof.Machine.execReceive s
  | .cryptblock => Sys2Proof.Machine.execCryptblock s
  | .reqsize => Sys2Proof.Machine.execReqsize s
  | .ctxset => Sys2Proof.Machine.execCtxset s
  | .encrypt => Sys2Proof.Machine.execEncrypt s
  | .decrypt => Sys2Proof.Machine.execDecrypt s

end Sys2Proof.Machine
end

