-- ==== Sys2Proof/Machine/RegMap.lean ====
section
/-! DEFINITION. The host register map of R14: the 24 registers, their numbers, widths and host access. -/

namespace Sys2Proof.Machine

/-- The registers of R14, in the order of their numbers 0 to 23. -/
inductive Reg where
  | cmd | status | err | devstat | inlen | outcap | outlen | crcout
  | pOpcode | pParam1 | pParam2 | pExplen | pSlot | pKeyidx | pDir | pMode | pPad | pIvpresent | pIv
  | ctxMode | ctxPad | ctxSlot | ctxKeyidx | ctxIv
  deriving DecidableEq, Repr

/-- All registers, the one numbered `n` at position `n` (R14). -/
def regTable : List Reg :=
  [.cmd, .status, .err, .devstat, .inlen, .outcap, .outlen, .crcout,
   .pOpcode, .pParam1, .pParam2, .pExplen, .pSlot, .pKeyidx, .pDir, .pMode, .pPad, .pIvpresent, .pIv,
   .ctxMode, .ctxPad, .ctxSlot, .ctxKeyidx, .ctxIv]

/-- The register of a number; 24 to 255 are reserved (R14). -/
def regOfNumber (n : Byte) : Option Reg := regTable[n.toNat]?

/-- The width of a register in bits (R14). -/
def regWidth : Reg → Nat
  | .inlen | .outcap | .outlen | .crcout | .pParam2 | .pExplen => 16
  | .pDir | .pMode | .pPad | .pIvpresent | .ctxMode | .ctxPad => 1
  | .pIv | .ctxIv => 128
  | .cmd | .status | .err | .devstat | .pOpcode | .pParam1 | .pSlot | .pKeyidx | .ctxSlot | .ctxKeyidx => 8

/-- May the host write it (the "host" column of R14)? -/
def regHostWrites : Reg → Bool
  | .cmd | .inlen | .outcap | .pOpcode | .pParam1 | .pParam2 | .pExplen | .pSlot | .pKeyidx | .pDir | .pMode
  | .pPad | .pIvpresent | .pIv => true
  | .status | .err | .devstat | .outlen | .crcout | .ctxMode | .ctxPad | .ctxSlot | .ctxKeyidx | .ctxIv => false

end Sys2Proof.Machine
end

