-- ==== Sys2Proof/Machine/Sequencer.lean ====
section
/-! DEFINITION. The sequencer (spec/45_sequencer.md): one transition of the table of R162 at a time, with the work R161
gives each state. It refines the commands of Machine/Crc.lean to Machine/CipherMode.lean, whose pseudocode is normative
(R161); the spec allows a command as one atomic step (R10), which is `exec`, and the two share every operation. -/

namespace Sys2Proof.Machine

/-- Go to a state of R161. -/
def seqGoto (q : SeqState) (s : State) : State := { s with seq := q }

/-- Go to `S_FAIL` with an error (R162). -/
def seqFail (e : Err) (s : State) : State := { s with seq := .sFail, pend := some e }

/-- Go to `S_CLASSIFY` with the error of `S_PARSE` (R162). -/
def seqToClassify (e : Err) (s : State) : State := { s with seq := .sClassify, pend := some e }

/-- `plainLen` on its way to `S_RELEASE` (R151). -/
def setPlainLen (n : Nat) (s : State) : State := { s with plainLen := n }

/-- Use bytes that may have no value: refuse by the given name when they have none. -/
def withBytes (r : Refusal) (o : Option Bytes) (k : Bytes → Host.Outcome State Fault Refusal) :
    Host.Outcome State Fault Refusal :=
  match o with
  | none => .refused r
  | some bs => k bs

/-- `expectedLength` of the current receive (R162): `P_EXPLEN` for RECEIVE, 19 for the other commands. -/
def seqExpected (s : State) : Nat := if s.cur = encode .receive then s.ops.pExplen.toNat else Param.cryptRespLen

/-- The payload of the response in `RXBUF`: `RXBUF[1..RXCNT-2)` (R103). -/
def rxPayload (s : State) : Option Bytes := s.rxbuf.readBytes 1 (s.rxcnt - 3)

/-- `S_VALIDATE` (R161, R162). A failed CTXSET also clears `CTX_VALID` (R142;
in this state: log entry 21). -/
def seqValidate (s : State) : Host.Outcome State Fault Refusal :=
  match decode s.cur with
  | .error _ => .next (seqFail .invalidParameter s)
  | .ok i =>
    match validate i s with
    | some e => .next (seqFail e (if i = .ctxset then setCtxValid false s else s))
    | none =>
      match i with
      | .crc16 | .build | .reqsize | .ctxset | .send | .encrypt | .decrypt => .next (seqGoto .sCompute s)
      | .parse =>
        withBytes .inbufUnwritten (readInbuf 0 s.ops.inlen.toNat s) (fun raw => .next (seqGoto .sParse (rxLoad raw s)))
      | .receive => .next (seqGoto .sRxReq (rxStart s))
      | .cryptblock => .next (seqGoto .sBlkPre s)

/-- Build a command frame in `TXBUF` and go on (R161, states `S_COMPUTE` and `S_BLK_PRE`). -/
def seqFrame (opcode param1 : Byte) (param2 : Word16) (payload : Bytes) (q : SeqState) (s : State) :
    Host.Outcome State Fault Refusal :=
  match buildCommandFrame opcode param1 param2 payload s with
  | (.error e, t) => .next (seqFail e t)
  | (.ok _, t) => .next (seqGoto q t)

/-- `S_COMPUTE` (R161, R162). R161 names CTXSET's copy here and the writing of the `CTX_*` registers in `S_RELEASE`: the model
copies nothing here, and writes the context registers and `CTX_VALID` in `S_RELEASE` (DESIGN CHOICE, log entry 21). Nor is
REQSIZE's size kept in a latch: `S_RELEASE` computes it again from the same operands, which nothing can see. -/
def seqCompute (s : State) : Host.Outcome State Fault Refusal :=
  match decode s.cur with
  | .ok .crc16 =>
    withBytes .inbufUnwritten (readInbuf 0 s.ops.inlen.toNat s)
      (fun data => .next (seqGoto .sRelease (setCrcreg (crcReg data) s)))
  | .ok .build =>
    withBytes .inbufUnwritten (readInbuf 0 s.ops.inlen.toNat s)
      (fun payload => seqFrame s.ops.pOpcode s.ops.pParam1 s.ops.pParam2 payload .sRelease s)
  | .ok .send =>
    withBytes .inbufUnwritten (readInbuf 0 s.ops.inlen.toNat s)
      (fun payload => seqFrame s.ops.pOpcode s.ops.pParam1 s.ops.pParam2 payload .sWake s)
  | .ok .reqsize => .next (seqGoto .sRelease s)
  | .ok .ctxset => .next (seqGoto .sRelease s)
  | .ok .encrypt =>
    match requiredOutputSize s.ops.inlen.toNat (paddingOfBit s.ctx.pad) with
    | .error e => .next (seqFail e s)
    | .ok total =>
      withBytes .inbufUnwritten (readInbuf 0 s.ops.inlen.toNat s) (fun data =>
        let t := loadWork (paddedInput (paddingOfBit s.ctx.pad) total data) s
        .next (seqGoto (if t.worklen = 0 then .sRelease else .sBlkPre) t))
  | .ok .decrypt => .next (seqGoto (if s.ops.inlen = 0 then .sUnpad else .sBlkPre) (loadIv s))
  | .ok .parse | .ok .receive | .ok .cryptblock | .error _ => .fault .noTransition

/-- `S_BLK_PRE` (R161): the 24-byte frame of the next block. -/
def seqBlkPre (s : State) : Host.Outcome State Fault Refusal :=
  match decode s.cur with
  | .ok .cryptblock =>
    withBytes .inbufUnwritten (readInbuf 0 16 s) (fun x =>
      seqFrame s.cfg.aesOpcode (modeByte s.ops.pKeyidx (directionOfBit s.ops.pDir)) (s.ops.pSlot.setWidth 16) x .sWake s)
  | .ok .encrypt =>
    withBytes .scratchUnwritten (s.work.readBytes (16 * s.blk) 16) (fun b =>
      seqFrame s.cfg.aesOpcode (modeByte s.ctx.keyIdx .encrypt) (s.ctx.slot.setWidth 16) (encInput b s) .sWake s)
  | .ok .decrypt =>
    withBytes .inbufUnwritten (readInbuf (16 * s.blk) 16 s) (fun c =>
      seqFrame s.cfg.aesOpcode (modeByte s.ctx.keyIdx .decrypt) (s.ctx.slot.setWidth 16) c .sWake s)
  | .ok .crc16 | .ok .build | .ok .parse | .ok .send | .ok .receive | .ok .reqsize | .ok .ctxset | .error _ =>
    .fault .noTransition

/-- `S_TX` (R161, R162): the whole of `TXBUF[0..TXLEN)` in one write. -/
def seqTx (s : State) : Host.Outcome State Fault Refusal :=
  withBytes .scratchUnwritten (s.txbuf.readBytes 0 s.txlen) (fun f =>
    match decode s.cur with
    | .ok .send => .next (seqGoto .sRelease (busWrite f s))
    | .ok .cryptblock | .ok .encrypt | .ok .decrypt => .next (seqGoto .sExec (busWrite f s))
    | .ok .crc16 | .ok .build | .ok .parse | .ok .receive | .ok .reqsize | .ok .ctxset | .error _ =>
      .fault .noTransition)

/-- `S_RX_REQ` (R162, R163): one chunk request, or the end of the loop. -/
def seqRxReq (s : State) : Host.Outcome State Fault Refusal :=
  if s.rxcnt < seqExpected s ∧ s.attempts < Param.retryBudget then .next (rxRequest (seqExpected s) s)
  else .next (seqGoto .sGoIdle s)

/-- `S_PARSE` (R161, R162): the `Timeout` test unless entered from `S_VALIDATE`, then the parser. -/
def seqParse (s : State) : Host.Outcome State Fault Refusal :=
  withBytes .scratchUnwritten (s.rxbuf.readBytes 0 s.rxcnt) (fun raw =>
    match decode s.cur with
    | .ok .parse =>
      match parseResponse s.cfg raw with
      | .ok _ => .next (seqGoto .sRelease (parseEffect raw s))
      | .error e => .next (seqFail e (parseEffect raw s))
    | .ok .receive =>
      match receiveOutcome s.cfg (seqExpected s) raw with
      | .ok _ => .next (seqGoto .sRelease (receiveEffect (seqExpected s) raw s))
      | .error e => .next (seqFail e (receiveEffect (seqExpected s) raw s))
    | .ok .cryptblock | .ok .encrypt | .ok .decrypt =>
      match receiveOutcome s.cfg (seqExpected s) raw with
      | .ok _ => .next (seqGoto .sBlkPost (receiveEffect (seqExpected s) raw s))
      | .error e => .next (seqToClassify e (receiveEffect (seqExpected s) raw s))
    | .ok .crc16 | .ok .build | .ok .send | .ok .reqsize | .ok .ctxset | .error _ => .fault .noTransition)

/-- `S_CLASSIFY` (R161, R133). -/
def seqClassify (s : State) : Host.Outcome State Fault Refusal :=
  match s.pend with
  | none => .fault .noTransition
  | some e =>
    withBytes .scratchUnwritten (s.rxbuf.readBytes 0 s.rxcnt)
      (fun raw => .next (seqFail (classify s.cfg raw e) (classifyEffect raw s)))

/-- After a block: the next one, the end of the loop, or, past the end, no row of R162. -/
def seqNextBlock (total : Nat) (atEnd : SeqState) (s : State) : Host.Outcome State Fault Refusal :=
  if 16 * s.blk < total then .next (seqGoto .sBlkPre s)
  else if 16 * s.blk = total then .next (seqGoto atEnd s)
  else .fault .noTransition

/-- `S_BLK_POST` (R161, R162). -/
def seqBlkPost (s : State) : Host.Outcome State Fault Refusal :=
  match decode s.cur with
  | .ok .cryptblock => .next (seqGoto .sRelease s)
  | .ok .encrypt =>
    withBytes .scratchUnwritten (rxPayload s) (fun c => seqNextBlock s.worklen .sRelease (encStore c s))
  | .ok .decrypt =>
    withBytes .scratchUnwritten (rxPayload s) (fun d =>
      withBytes .inbufUnwritten (readInbuf (16 * s.blk) 16 s) (fun c =>
        seqNextBlock s.ops.inlen.toNat .sUnpad (decStore c d s)))
  | .ok .crc16 | .ok .build | .ok .parse | .ok .send | .ok .receive | .ok .reqsize | .ok .ctxset | .error _ =>
    .fault .noTransition

/-- `S_UNPAD` (R161, R151): DECRYPT only. -/
def seqUnpad (s : State) : Host.Outcome State Fault Refusal :=
  withBytes .scratchUnwritten (s.work.readBytes 0 s.ops.inlen.toNat) (fun d =>
    match removePadding (paddingOfBit s.ctx.pad) d with
    | .error e => .next (seqFail e (setWorklen d.length s))
    | .ok out => .next (seqGoto .sRelease (setPlainLen out.length (setWorklen d.length s))))

/-- Write a released string and go to `S_FINISH`. -/
def seqReleaseOut (o : Option Bytes) (s : State) : Host.Outcome State Fault Refusal :=
  withBytes .scratchUnwritten o (fun out => .next (seqGoto .sFinish (releaseOut out s)))

/-- `S_RELEASE` (R161): write the results; of CTXSET, the context registers and `CTX_VALID` (DESIGN CHOICE, log entry 21). -/
def seqRelease (s : State) : Host.Outcome State Fault Refusal :=
  match decode s.cur with
  | .ok .crc16 => .next (seqGoto .sFinish (setCrcout s.crcreg s))
  | .ok .build => seqReleaseOut (s.txbuf.readBytes 0 s.txlen) s
  | .ok .parse => seqReleaseOut (rxPayload s) s
  | .ok .receive => seqReleaseOut (rxPayload s) s
  | .ok .cryptblock => seqReleaseOut (rxPayload s) s
  | .ok .send => .next (seqGoto .sFinish (setOutlen 0 s))
  | .ok .reqsize =>
    match requiredOutputSize s.ops.inlen.toNat (paddingOfBit s.ops.pPad) with
    | .ok n => .next (seqGoto .sFinish (setOutlen n s))
    | .error e => .next (seqFail e s)
  | .ok .ctxset => .next (seqGoto .sFinish (setOutlen 0 (setContext (newContext s.ops) s)))
  | .ok .encrypt => seqReleaseOut (s.work.readBytes 0 s.worklen) s
  | .ok .decrypt => seqReleaseOut (s.work.readBytes 0 s.plainLen) s
  | .error _ => .fault .noTransition

/-- `S_FAIL` (R161, R176). -/
def seqFailStep (s : State) : Host.Outcome State Fault Refusal :=
  match s.pend with
  | none => .fault .noTransition
  | some e => .next (seqGoto .sFinish (writeError e s))

/-- One transition of the sequencer (R162). In `S_IDLE` it waits. -/
def seqStep (s : State) : Host.Outcome State Fault Refusal :=
  match s.seq with
  | .sIdle => .next s
  | .sValidate => seqValidate s
  | .sCompute => seqCompute s
  | .sBlkPre => seqBlkPre s
  | .sWake => .next (seqGoto .sTx (busWake s))
  | .sTx => seqTx s
  | .sExec => .next (seqGoto .sRxReq (rxStart (busExecWait s)))
  | .sRxReq => seqRxReq s
  | .sGoIdle => .next (seqGoto .sParse (busIdle s))
  | .sParse => seqParse s
  | .sClassify => seqClassify s
  | .sBlkPost => seqBlkPost s
  | .sUnpad => seqUnpad s
  | .sRelease => seqRelease s
  | .sFail => seqFailStep s
  | .sFinish => .next (finishCommand s)

/-- `n` transitions, stopping where one has no next state. -/
def seqRun : Nat → State → Host.Outcome State Fault Refusal
  | 0, s => .next s
  | n + 1, s =>
    match seqStep s with
    | .next t => seqRun n t
    | .fault f => .fault f
    | .refused r => .refused r

end Sys2Proof.Machine
end

