-- ==== Sys2Proof/Machine/HostPort.lean ====
section
/-! DEFINITION. The host's side of the block: the register map (R14, R15), the buffers (R19), host access while a command
runs (R206), a `CMD` write (R160, R71), reset (R200), and one step of the whole: the next action of the host, or, when
there is none, a transition of the sequencer. -/

namespace Sys2Proof.Machine

/-- A value that a host read sees only between commands: while `BUSY = 1` the result registers read 0 (R206; DEDUCED for
the states `S_RELEASE` to `S_FINISH`, log entry 10). -/
def whenIdle (s : State) (v : Byte) : Byte := if s.busy then 0 else v

/-- As `whenIdle`, for a 16-bit result register. -/
def whenIdle16 (s : State) (v : Word16) : Word16 := if s.busy then 0 else v

/-- `STATUS` as a host read sees it: while `BUSY = 1` it reads `DONE = 0`, and `ERRF` agrees with `ERR`, which reads 0
(R13, R206). -/
def hostStatus (s : State) : Byte :=
  statusByte { s with done := s.done && !s.busy, errf := s.errf && !s.busy }

/-- What a host read of a register returns (R14, R206), widened with zeros; `CMD` reads 0. -/
def readReg (s : State) : Reg → Word128
  | .cmd => 0
  | .status => (hostStatus s).setWidth 128
  | .err => (whenIdle s s.err).setWidth 128
  | .devstat => (whenIdle s s.devstat).setWidth 128
  | .inlen => s.ops.inlen.setWidth 128
  | .outcap => s.ops.outcap.setWidth 128
  | .outlen => (whenIdle16 s s.outlen).setWidth 128
  | .crcout => (whenIdle16 s s.crcout).setWidth 128
  | .pOpcode => s.ops.pOpcode.setWidth 128
  | .pParam1 => s.ops.pParam1.setWidth 128
  | .pParam2 => s.ops.pParam2.setWidth 128
  | .pExplen => s.ops.pExplen.setWidth 128
  | .pSlot => s.ops.pSlot.setWidth 128
  | .pKeyidx => s.ops.pKeyidx.setWidth 128
  | .pDir => s.ops.pDir.setWidth 128
  | .pMode => s.ops.pMode.setWidth 128
  | .pPad => s.ops.pPad.setWidth 128
  | .pIvpresent => s.ops.pIvpresent.setWidth 128
  | .pIv => s.ops.pIv
  | .ctxMode => s.ctx.mode.setWidth 128
  | .ctxPad => s.ctx.pad.setWidth 128
  | .ctxSlot => s.ctx.slot.setWidth 128
  | .ctxKeyidx => s.ctx.keyIdx.setWidth 128
  | .ctxIv => s.ctx.iv

/-- A host read by register number: a reserved number reads 0 (R14). -/
def readRegNumber (s : State) (n : Byte) : Word128 :=
  match regOfNumber n with
  | some r => readReg s r
  | none => 0

/-- The operand registers after a host write (R14): a register keeps the low bits of the value, a 1-bit register bit 0;
a register the host may not write keeps its value (DESIGN CHOICE, log entries 9, 14). -/
def writeOperand (r : Reg) (v : Word128) (o : OperandRegs) : OperandRegs :=
  match r with
  | .inlen => { o with inlen := v.setWidth 16 }
  | .outcap => { o with outcap := v.setWidth 16 }
  | .pOpcode => { o with pOpcode := v.setWidth 8 }
  | .pParam1 => { o with pParam1 := v.setWidth 8 }
  | .pParam2 => { o with pParam2 := v.setWidth 16 }
  | .pExplen => { o with pExplen := v.setWidth 16 }
  | .pSlot => { o with pSlot := v.setWidth 8 }
  | .pKeyidx => { o with pKeyidx := v.setWidth 8 }
  | .pDir => { o with pDir := v.setWidth 1 }
  | .pMode => { o with pMode := v.setWidth 1 }
  | .pPad => { o with pPad := v.setWidth 1 }
  | .pIvpresent => { o with pIvpresent := v.setWidth 1 }
  | .pIv => { o with pIv := v }
  | .cmd | .status | .err | .devstat | .outlen | .crcout | .ctxMode | .ctxPad | .ctxSlot | .ctxKeyidx | .ctxIv => o

/-- A host write by register number (R14, R160, R206): ignored while `BUSY = 1` and for a reserved or read-only register;
a write to `CMD` starts a command. -/
def writeRegNumber (n : Byte) (v : Word128) (s : State) : State :=
  if s.busy then s
  else
    match regOfNumber n with
    | none => s
    | some .cmd => startCommand (v.setWidth 8) s
    | some r => { s with ops := writeOperand r v s.ops }

/-- A host write of INBUF bytes (R19, R206): ignored while `BUSY = 1`; there is no byte at or above `BUF_CAP` (R40). -/
def writeInbuf (off : Nat) (bytes : Bytes) (s : State) : Host.Outcome State Fault Refusal :=
  if s.cfg.bufCap < off + bytes.length then .fault .noSuchOffset
  else if s.busy then .next s
  else .next { s with inbuf := s.inbuf.writeBytes off bytes }

/-- Record what a host read returned (the model's own record). -/
def recordRead (r : HostRead) (s : State) : State := { s with reads := s.reads ++ [r] }

/-- A host read of INBUF (R19); a byte the host has not written since reset has no value (R26; log entry 5). An empty read
reads none and succeeds (log entry 22). -/
def hostReadInbuf (off n : Nat) (s : State) : Host.Outcome State Fault Refusal :=
  if s.cfg.bufCap < off + n then .fault .noSuchOffset
  else
    match readInbuf off n s with
    | none => .refused .inbufUnwritten
    | some bs => .next (recordRead (.inbuf off bs) s)

/-- Does a successful completion of this command define bytes of OUTBUF (R26)? -/
def definesOutbuf (v : Byte) : Bool :=
  v == encode .build || v == encode .parse || v == encode .receive || v == encode .cryptblock ||
    v == encode .encrypt || v == encode .decrypt

/-- The length of the defined part of OUTBUF (R26): `OUTLEN` after a successful completion of a command that defines
bytes of it, else 0 (log entry 19). -/
def definedOut (s : State) : Nat := if s.done && !s.busy && !s.errf && definesOutbuf s.cur then s.outlen.toNat else 0

/-- A host read of OUTBUF (R19), refused when it would read a byte outside the defined part (R26, U3, U9). The spec is
silent on an EMPTY read (`n = 0`): it reads no byte, and in the model it returns the empty string at every offset up to
`BUF_CAP`, inside the defined part or above it, as an empty read of INBUF does (DESIGN CHOICE, log entry 22). -/
def hostReadOutbuf (off n : Nat) (s : State) : Host.Outcome State Fault Refusal :=
  if s.cfg.bufCap < off + n then .fault .noSuchOffset
  else if 0 < n ∧ definedOut s < off + n then .refused .outbufUndefined
  else
    match s.outbuf.readBytes off n with
    | none => .refused .outbufUndefined
    | some bs => .next (recordRead (.outbuf off bs) s)

/-- Reset (R200, R26): every register takes its reset value, whatever the block was doing; the byte arrays lose their
values for the model; no bus event. The oracle afterwards is a fresh unconstrained one (U6). The configuration and the
model's records stay (DESIGN CHOICE, log entry 18). -/
def resetBlock (s : State) : State :=
  { State.resetWith s.cfg with trace := s.trace, era := s.era + 1, hostq := s.hostq, reads := s.reads }

/-- A `CMD` write of a reserved code (R71): the command starts and at once completes with `InvalidParameter`. -/
def reservedCommand (v : Byte) (s : State) : State := errorCompletion .invalidParameter (startCommand v s)

/-- A `CMD` write while `BUSY = 0`, as one atomic step to its completion (R10, R160): the command the byte names, or the
error completion of a reserved code. -/
def runCommand (v : Byte) (s : State) : Host.Outcome State Fault Refusal :=
  match decode v with
  | .ok i => exec i s
  | .error _ => .next (reservedCommand v s)

/-- The host's queue after its first action is taken. -/
def setHostq (q : List HostAction) (s : State) : State := { s with hostq := q }

/-- One action of the host, `rest` being the actions after it (R75). While `BUSY = 1` the write of a `cmd` line is
ignored (R206) and the line goes on as a wait for the running command (DESIGN CHOICE, log entry 12). -/
def hostAct (a : HostAction) (rest : List HostAction) (s : State) : Host.Outcome State Fault Refusal :=
  match a with
  | .cmd v => if s.busy then .next (setHostq (.wait :: rest) s) else runCommand v (setHostq rest s)
  | .wr n v => .next (writeRegNumber n v (setHostq rest s))
  | .rd n => .next (recordRead (.reg n (readRegNumber s n)) (setHostq rest s))
  | .wrIn off bytes => writeInbuf off bytes (setHostq rest s)
  | .rdIn off n => hostReadInbuf off n (setHostq rest s)
  | .rdOut off n => hostReadOutbuf off n (setHostq rest s)
  | .wait => if s.busy then seqStep s else .next (setHostq rest s)
  | .tick => seqStep (setHostq rest s)
  | .rst => .next (resetBlock (setHostq rest s))

/-- One step of the whole: the next action of the host; with none, the sequencer goes on (in `S_IDLE` it waits,
R161; DESIGN CHOICE, log entries 1, 2). -/
def machineStep (s : State) : Host.Outcome State Fault Refusal :=
  match s.hostq with
  | [] => seqStep s
  | a :: rest => hostAct a rest s

/-- The state in which the next step is the `CMD` write of the byte `w` by an idle block. -/
def placeCommand (w : Nat) (s : State) : State :=
  { s with hostq := .cmd (BitVec.ofNat 8 w) :: s.hostq, busy := false, seq := .sIdle }

end Sys2Proof.Machine
end

