-- ==== Sys2Proof/Machine/Step.lean ====
section
/-! DEFINITION. The step, and where it takes its next command from: the host's queue. The block fetches no instructions
(R12); a command comes to run when the host writes its code to `CMD` (R70). -/

namespace Sys2Proof.Machine

/-- One step of the machine. -/
def step (s : State) : Host.Outcome State Fault Refusal := machineStep s

/-- `s` with the command byte `w` about to be written to `CMD` by the host, the block being idle, so that the very next
step runs it (log entry 2). A command is one byte (R70): bits of `w` above bit 7 are not part of it, and `nbits` is 8 for
every row. -/
def State.withFetchWord (s : State) (_nbits w : Nat) : State := placeCommand w s

end Sys2Proof.Machine
end

