-- ==== Sys2Proof/Safety.lean ====
section
/-! DEFINITION. What counts as a good state and a good run, in the terms the statements use: the invariants of the state,
what a completion leaves, what a command keeps, and the shapes of the bus trace and of the device's answers. -/

namespace Sys2Proof.Machine

/-! ## Invariants -/

/-- The flags and error registers agree (R13, R17, R170, R206): `BUSY` is 1 exactly when the sequencer is not in
`S_IDLE`; `DONE = 1` only when `BUSY = 0`; `ERRF = 1` exactly when `ERR` is not 0; `ERR` is one of the eleven values of
R170; `DEVSTAT` is not 0 exactly when `ERR` is the code of `DeviceError`; an error in the latch that is a `DeviceError`
has a status that is not 0. -/
abbrev State.FlagsAgree (s : State) : Prop :=
  (s.busy = true ↔ s.seq ≠ .sIdle) ∧ (s.done = true → s.busy = false) ∧ (s.errf = true ↔ s.err ≠ 0) ∧
    s.err ∈ errCodes ∧ (s.devstat ≠ 0 ↔ s.err = 0x10) ∧ ∀ b, s.pend = some (.deviceError b) → b ≠ 0

/-- All five byte arrays are in canonical form. -/
abbrev State.MemoryCanonical (s : State) : Prop :=
  s.inbuf.wf ∧ s.outbuf.wf ∧ s.txbuf.wf ∧ s.rxbuf.wf ∧ s.work.wf

/-- Every array and every counter is within its size (R19, R21, R22, R23, R40). -/
abbrev State.WithinCapacities (s : State) : Prop :=
  s.inbuf.within s.cfg.bufCap ∧ s.outbuf.within s.cfg.bufCap ∧ s.txbuf.within Param.txBufSize ∧
    s.rxbuf.within s.cfg.rxCap ∧ s.work.within (s.cfg.bufCap + 16) ∧ s.txlen ≤ Param.txBufSize ∧
    s.rxcnt ≤ s.cfg.rxCap ∧ s.attempts ≤ Param.retryBudget ∧ s.worklen ≤ s.cfg.bufCap + 16

/-- Nothing of a cipher command survives (R23): `CV` and `WORKLEN` are 0 and every byte of WORK is 0. -/
abbrev State.Wiped (s : State) : Prop :=
  s.cv = 0 ∧ s.worklen = 0 ∧ ∀ a, a < s.cfg.bufCap + 16 → s.work.read a = some 0

/-- Every write of a frame is immediately preceded by the wake sequence (R112), `prev` being the event before the
list. -/
def wakesFirst (prev : Option BusEvent) : List BusEvent → Prop
  | [] => True
  | e :: rest => (∀ f, e = .write f → prev = some .wake) ∧ wakesFirst (some e) rest

/-- The invariant behind R112: it holds of the trace so far, and in `S_TX` the last event is the wake. -/
def State.WakesFirst (s : State) : Prop :=
  wakesFirst none s.trace ∧ (s.seq = .sTx → s.trace.getLast? = some .wake)

/-! ## Completions -/

/-- What every completion of a command leaves (R166). -/
abbrev Completed (i : Instr) (t : State) : Prop :=
  t.busy = false ∧ t.done = true ∧ t.seq = .sIdle ∧ t.cur = encode i ∧ t.pend = none ∧ t.plainLen = 0

/-- A successful completion (R13, R17). -/
abbrev Succeeded (i : Instr) (t : State) : Prop := Completed i t ∧ t.errf = false ∧ t.err = 0 ∧ t.devstat = 0

/-- An error completion (R176). -/
abbrev FailedWith (i : Instr) (e : Err) (s t : State) : Prop :=
  Completed i t ∧ t.errf = true ∧ t.err = errCode e ∧ t.devstat = errDevstat e ∧ t.outlen = 0 ∧ t.crcout = 0 ∧
    t.outbuf = s.outbuf

/-! ## What a command keeps -/

/-- What no command writes: the parameters, the operand registers, INBUF, and the model's own queue, read record and
era. -/
abbrev KeepsHostOwned (s t : State) : Prop :=
  t.cfg = s.cfg ∧ t.ops = s.ops ∧ t.inbuf = s.inbuf ∧ t.hostq = s.hostq ∧ t.reads = s.reads ∧ t.era = s.era

/-- The cipher context and its flag are as before (R16). -/
abbrev KeepsContext (s t : State) : Prop := t.ctx = s.ctx ∧ t.ctxValid = s.ctxValid

/-- No bus event, and no answer of the device consumed. -/
abbrev KeepsBus (s t : State) : Prop := t.trace = s.trace ∧ t.answers = s.answers

/-- `TXBUF` and `TXLEN` are as before. -/
abbrev KeepsTx (s t : State) : Prop := t.txbuf = s.txbuf ∧ t.txlen = s.txlen

/-- `RXBUF`, `RXCNT` and `ATTEMPTS` are as before. -/
abbrev KeepsRx (s t : State) : Prop := t.rxbuf = s.rxbuf ∧ t.rxcnt = s.rxcnt ∧ t.attempts = s.attempts

/-- `CV`, `WORK` and `WORKLEN` are as before. -/
abbrev KeepsWork (s t : State) : Prop := t.cv = s.cv ∧ t.work = s.work ∧ t.worklen = s.worklen

/-- A command that fails before it has done anything: every hidden register but `BLK`, which the start clears, is as
before. -/
abbrev KeepsHidden (s t : State) : Prop :=
  KeepsTx s t ∧ KeepsRx s t ∧ KeepsWork s t ∧ t.crcreg = s.crcreg ∧ t.blk = 0

/-- The array `m'` is `m` with the string stored at `off`: inside the range the bytes of the string, every other offset
as before. -/
abbrev Wrote (m m' : Memory) (off : Nat) (bytes : Bytes) : Prop :=
  ∀ a, m'.read a = if off ≤ a ∧ a < off + bytes.length then bytes[a - off]? else m.read a

/-! ## The bus -/

/-- The events of a receive of `e` bytes whose requests are answered by the given chunks (R115): each asks for
`min(32, what is missing)`. -/
def readEvents (e : Nat) : List Bytes → List BusEvent
  | [] => []
  | c :: cs => .read (min 32 e) c :: readEvents (e - c.length) cs

/-- The chunks are answers a receive of `e` bytes can get, and together exactly `e` bytes (R47, R121). -/
def chunksFit (e : Nat) : List Bytes → Prop
  | [] => e = 0
  | c :: cs => 0 < e ∧ c.length ≤ min 32 e ∧ chunksFit (e - c.length) cs

/-- The chunks are answers a receive of `e` bytes can get, asked for one after another while bytes are missing; they need
not complete it (R121). -/
def chunksPartial (e : Nat) : List Bytes → Prop
  | [] => True
  | c :: cs => 0 < e ∧ c.length ≤ min 32 e ∧ chunksPartial (e - c.length) cs

/-- The frame `cryptBlock` sends for a block (R67). -/
def cryptFrame (cfg : Config) (slot keyIdx : Byte) (dir : Direction) (x : Bytes) : Bytes :=
  commandFrame cfg cfg.aesOpcode (modeByte keyIdx dir) (slot.setWidth 16) x

/-- The events of one block whose chunk requests are answered by `ch` (R132). -/
def blockEvents (cfg : Config) (slot keyIdx : Byte) (dir : Direction) (x : Bytes) (ch : List Bytes) : List BusEvent :=
  [.wake, .write (cryptFrame cfg slot keyIdx dir x), .execWait] ++ readEvents 19 ch ++ [.idle]

/-- The chunks `ch` bring the block `c` back: at most 20, and together its response frame (R132, R135). -/
abbrev AnswersBlock (cfg : Config) (ch : List Bytes) (c : Bytes) : Prop :=
  c.length = 16 ∧ ch.length ≤ 20 ∧ chunksFit 19 ch ∧ ch.flatten = respFrame cfg c

/-- The string begins with a status frame whose status is not 0 (R133). -/
abbrev ReportsStatus (cfg : Config) (raw : Bytes) : Prop :=
  4 ≤ raw.length ∧ (raw.getD 0 0).toNat = 3 + cfg.countSelf.toNat ∧ (raw.drop 2).take 2 = crc16 (raw.take 2) ∧
    raw.getD 1 0 ≠ 0

/-- The chunks `ch` make a block fail with the error `e`: `Timeout` when 20 requests do not bring 19 bytes (R116, R117), the
parser's error when they do (R103); `DeviceError` with the status instead of either when what came begins with a status
frame whose status is not 0 (R133). -/
abbrev FailsBlock (cfg : Config) (ch : List Bytes) (e : Err) : Prop :=
  ch.length ≤ 20 ∧ chunksPartial 19 ch ∧ (ch.flatten.length < 19 → ch.length = 20) ∧
    ∃ e0, (ch.flatten.length < 19 ∧ e0 = .timeout ∨ ch.flatten.length = 19 ∧ parseResponse cfg ch.flatten = .error e0) ∧
      (ReportsStatus cfg ch.flatten ∧ e = .deviceError (ch.flatten.getD 1 0) ∨ ¬ReportsStatus cfg ch.flatten ∧ e = e0)

/-- Flip bit `k` of the byte at index `i`. -/
def flipBit (data : Bytes) (i k : Nat) : Bytes := data.modify i (fun b => b ^^^ (1#8 <<< k))

/-! ## Chaining (R148, R149, R152, R153) -/

/-- The blocks a mode sends for the plaintext blocks `ps` when the first of them come back as `cs`: ECB sends the blocks, CBC
each exclusive-ored with the ciphertext before it (the IV `v` before the first). There is one for every block of `ps` whose
predecessors have all come back. -/
def sentBlocks (m : Mode) (v : Bytes) (ps cs : List Bytes) : List Bytes :=
  List.zipWith (fun p w => match m with
    | .ecb => p
    | .cbc => xorBytes p w) ps (v :: cs)

/-- The ciphertext blocks of a single-block encryption `enc`. -/
def encChain (enc : Bytes → Bytes) (m : Mode) (v : Bytes) : List Bytes → List Bytes
  | [] => []
  | p :: ps =>
    let c := enc (match m with
      | .ecb => p
      | .cbc => xorBytes p v)
    c :: encChain enc m c ps

/-- The plaintext blocks of ciphertext blocks that come back decrypted as `ds`. -/
def plainBlocks (m : Mode) (v : Bytes) : List Bytes → List Bytes → List Bytes
  | c :: cs, d :: ds =>
    (match m with
      | .ecb => d
      | .cbc => xorBytes d v) :: plainBlocks m c cs ds
  | _, _ => []

/-! ## What a later command can see (R24) -/

/-- Two states agree on all that persists from one command to the next and is read by a later one (R24), and on the
environment: everything but the hidden per-call registers and the result registers. -/
abbrev AgreeOnPersistent (s t : State) : Prop :=
  t.cfg = s.cfg ∧ t.ops = s.ops ∧ t.ctx = s.ctx ∧ t.ctxValid = s.ctxValid ∧ t.inbuf = s.inbuf ∧
    t.outbuf = s.outbuf ∧ t.trace = s.trace ∧ t.answers = s.answers ∧ t.era = s.era

/-- Two states agree on all that a command reports: the host-visible results and the bus. -/
abbrev AgreeOnResults (s t : State) : Prop :=
  AgreeOnPersistent s t ∧ t.busy = s.busy ∧ t.done = s.done ∧ t.errf = s.errf ∧ t.err = s.err ∧
    t.devstat = s.devstat ∧ t.outlen = s.outlen ∧ t.crcout = s.crcout

end Sys2Proof.Machine
end

