-- ==== Sys2Proof/WellFormed.lean ====
section
/-! DEFINITION. Well-formedness. A command has no fields (R70), so no term of `Instr` is ill formed; the checks are on
the lines of a host program (R75): the code of a `cmd` line, the register of a `wr` or `rd` line and the value it
carries, and the range of a buffer line. What the block does with an ill-formed line (a reserved code, a reserved
register number, a value wider than the register) is defined all the same, in Machine/HostPort.lean. -/

namespace Sys2Proof

/-- The whole byte of a command is its code and it has no operand field (R70): every command is well formed. -/
def Instr.wellFormed : Instr → Bool
  | .crc16 | .build | .parse | .send | .receive | .cryptblock | .reqsize | .ctxset | .encrypt | .decrypt => true

/-- A `cmd` line names a command (R70, R71). -/
def codeNamesCommand (v : Byte) : Bool :=
  match decode v with
  | .ok i => i.wellFormed
  | .error _ => false

/-- A `wr` line names a register the host may write and a value that fits it (R14). -/
def writeFits (n : Byte) (v : Word128) : Bool :=
  match Machine.regOfNumber n with
  | some r => Machine.regHostWrites r && decide (v.toNat < 2 ^ Machine.regWidth r)
  | none => false

/-- The well-formed lines of a host program, for a given `BUF_CAP` (R14, R40, R71, R75). -/
def HostAction.wellFormed (cfg : Config) : HostAction → Bool
  | .cmd v => codeNamesCommand v
  | .wr n v => writeFits n v
  | .rd n => (Machine.regOfNumber n).isSome
  | .wrIn off bytes => decide (off + bytes.length ≤ cfg.bufCap)
  | .rdIn off n => decide (off + n ≤ cfg.bufCap)
  | .rdOut off n => decide (off + n ≤ cfg.bufCap)
  | .wait => true
  | .tick => true
  | .rst => true

end Sys2Proof
end

