-- ==== Sys2Proof/Certificates/Slice0/Obligations.lean ====
section
/-! DEFINITION. The statements for the provers: one definition of a proposition each, listed in OBLIGATIONS.json. -/

open Sys2Proof Sys2Proof.Machine

/-! ## The command byte -/

/-- R70: the code is the whole byte, and each command has one code. -/
def Obligations.CommandByteRoundTrip : Prop :=
  ∀ (v : Byte) (i : Instr), decode v = .ok i ↔ v = encode i

/-- R70, the codes written out; R71, the reserved ones are refused by name. -/
def Obligations.CommandCodesOfTheTable : Prop :=
  decode 0x01 = .ok .crc16 ∧ decode 0x02 = .ok .build ∧ decode 0x03 = .ok .parse ∧ decode 0x04 = .ok .send ∧
    decode 0x05 = .ok .receive ∧ decode 0x06 = .ok .cryptblock ∧ decode 0x07 = .ok .reqsize ∧
    decode 0x08 = .ok .ctxset ∧ decode 0x09 = .ok .encrypt ∧ decode 0x0A = .ok .decrypt ∧
    ∀ v : Byte, v = 0x00 ∨ 0x0B ≤ v.toNat → decode v = .error (.reservedCode v)

/-! ## The CRC engine -/

/-- R91: the bit step, with the order of the bits of a byte and of the bytes. -/
def Obligations.CrcBitStep : Prop :=
  (∀ (r : Word16) (d : Bool),
    crcStep r d =
      if d ≠ r.getLsbD 15 then BitVec.ofNat 16 (r.toNat * 2 % 65536) ^^^ 0x8005
      else BitVec.ofNat 16 (r.toNat * 2 % 65536)) ∧
  (∀ (r : Word16) (b : Byte),
    crcByte r b =
      crcStep (crcStep (crcStep (crcStep (crcStep (crcStep (crcStep (crcStep r (b.getLsbD 0)) (b.getLsbD 1))
        (b.getLsbD 2)) (b.getLsbD 3)) (b.getLsbD 4)) (b.getLsbD 5)) (b.getLsbD 6)) (b.getLsbD 7)) ∧
  crcReg [] = 0 ∧ ∀ (data : Bytes) (b : Byte), crcReg (data ++ [b]) = crcByte (crcReg data) b

/-- R92: the table-driven engine computes the same as the bit-serial one. -/
def Obligations.TableDrivenCrcAgrees : Prop :=
  (∀ (r : Word16) (b : Byte), crcByteByTable r b = crcByte r b) ∧
    ∀ data : Bytes, data.foldl crcByteByTable Param.crcInit = crcReg data

/-- R94 (a): the CRC is linear over exclusive or, for inputs of equal length; R90, corner case: an all-zero input of any
length gives (0, 0). -/
def Obligations.CrcIsLinear : Prop :=
  (∀ a b : Bytes, a.length = b.length → crcReg (xorBytes a b) = crcReg a ^^^ crcReg b) ∧
    ∀ n : Nat, crc16 (rep 0 n) = [0, 0]

/-- R94 (b): flipping exactly one bit of the data always changes the result. -/
def Obligations.CrcDetectsEverySingleBitFlip : Prop :=
  ∀ (data : Bytes) (i k : Nat), i < data.length → k < 8 → crc16 (flipBit data i k) ≠ crc16 data

/-! ## Frames -/

/-- R102 with the layout of R60 to R63: a built frame, byte by byte, for both values of `COUNT_SELF`. -/
def Obligations.BuiltFrameLayout : Prop :=
  ∀ (cfg : Config) (opcode param1 : Byte) (param2 : Word16) (payload : Bytes),
    cfg.Legal → payload.length ≤ cfg.maxPayload →
    let f := commandFrame cfg opcode param1 param2 payload
    f.length = 8 + payload.length ∧ 8 ≤ f.length ∧ f.length ≤ 255 ∧ f[0]? = some cfg.wordAddrCmd ∧
      (∃ count : Byte, f[1]? = some count ∧ count.toNat = f.length - 2 + cfg.countSelf.toNat) ∧
      f[2]? = some opcode ∧ f[3]? = some param1 ∧ f[4]? = some (loByte param2) ∧ f[5]? = some (hiByte param2) ∧
      (f.drop 6).take payload.length = payload ∧ f.drop (6 + payload.length) = crc16 ((f.drop 1).take (5 + payload.length))

/-- R106: a well-formed response frame parses back to its payload, for both values of `COUNT_SELF`. -/
def Obligations.ResponseFrameParsesBack : Prop :=
  ∀ (cfg : Config) (p : Bytes), p.length + cfg.countSelf.toNat ≤ 253 → parseResponse cfg (respFrame cfg p) = .ok p

/-- R103: what the parser answers, clause by clause and in this order. -/
def Obligations.ParserVerdict : Prop :=
  ∀ (cfg : Config) (raw : Bytes),
    (raw.length < 3 → parseResponse cfg raw = .error .countMismatch) ∧
    (∀ count, 3 ≤ raw.length → raw[0]? = some count →
      (count.toNat ≠ raw.length - 1 + cfg.countSelf.toNat → parseResponse cfg raw = .error .countMismatch) ∧
      (count.toNat = raw.length - 1 + cfg.countSelf.toNat →
        (raw.drop (raw.length - 2) ≠ crc16 (raw.take (raw.length - 2)) → parseResponse cfg raw = .error .crcMismatch) ∧
        (raw.drop (raw.length - 2) = crc16 (raw.take (raw.length - 2)) →
          parseResponse cfg raw = .ok ((raw.drop 1).take (raw.length - 3)))))

/-- R105 (a), (c): a flipped bit in the payload or in the CRC of a valid response is a `CrcMismatch`. -/
def Obligations.TamperedResponseIsCrcMismatch : Prop :=
  ∀ (cfg : Config) (v p : Bytes) (i k : Nat),
    parseResponse cfg v = .ok p → 1 ≤ i → i < v.length → k < 8 →
    parseResponse cfg (flipBit v i k) = .error .crcMismatch

/-- R105 (b), (d): a flipped bit in the count, or the loss of the last byte, is a `CountMismatch`. -/
def Obligations.TamperedCountIsCountMismatch : Prop :=
  ∀ (cfg : Config) (v p : Bytes) (k : Nat), parseResponse cfg v = .ok p →
    (k < 8 → parseResponse cfg (flipBit v 0 k) = .error .countMismatch) ∧
    parseResponse cfg v.dropLast = .error .countMismatch

/-- R68: the mode byte. -/
def Obligations.ModeByteValues : Prop :=
  (∀ (keyIdx : Byte) (dir : Direction), keyIdx.toNat ≤ 3 →
    (modeByte keyIdx dir).toNat = 64 * keyIdx.toNat + (bitOfDirection dir).toNat) ∧
  [modeByte 0 .encrypt, modeByte 0 .decrypt, modeByte 1 .encrypt, modeByte 1 .decrypt, modeByte 2 .encrypt,
    modeByte 2 .decrypt, modeByte 3 .encrypt, modeByte 3 .decrypt] = [0x00, 0x01, 0x40, 0x41, 0x80, 0x81, 0xC0, 0xC1]

/-! ## The commands without the bus -/

/-- R95: the command CRC16, its error and its result; nothing but `CRCOUT` and `CRCREG` takes a value. What the hidden per-call registers hold afterwards is
the model's choice (log entry 8). -/
def Obligations.Crc16CommandMeaning : Prop :=
  ∀ s : State,
    (s.cfg.bufCap < s.ops.inlen.toNat →
      ∃ t, exec .crc16 s = .next t ∧ FailedWith .crc16 .invalidParameter s t ∧ KeepsHostOwned s t ∧ KeepsContext s t ∧
        KeepsBus s t ∧ KeepsHidden s t) ∧
    (∀ data, s.ops.inlen.toNat ≤ s.cfg.bufCap → readInbuf 0 s.ops.inlen.toNat s = some data →
      ∃ t, exec .crc16 s = .next t ∧ Succeeded .crc16 t ∧ t.outlen = 0 ∧ bytesOfWord t.crcout = crc16 data ∧
        t.crcout = crcReg data ∧ t.crcreg = crcReg data ∧ t.outbuf = s.outbuf ∧ KeepsHostOwned s t ∧ KeepsContext s t ∧
        KeepsBus s t ∧ KeepsTx s t ∧ KeepsRx s t ∧ KeepsWork s t ∧ t.blk = 0)

/-- R101: the command BUILD, its errors in order and its result. What the hidden per-call registers hold afterwards is
the model's choice (log entry 8). -/
def Obligations.BuildCommandMeaning : Prop :=
  ∀ s : State,
    (s.cfg.bufCap < s.ops.inlen.toNat ∨ s.cfg.bufCap < s.ops.outcap.toNat ∨ s.cfg.maxPayload < s.ops.inlen.toNat →
      ∃ t, exec .build s = .next t ∧ FailedWith .build .invalidParameter s t ∧ KeepsHostOwned s t ∧ KeepsContext s t ∧
        KeepsBus s t ∧ KeepsHidden s t) ∧
    (s.ops.inlen.toNat ≤ s.cfg.bufCap → s.ops.outcap.toNat ≤ s.cfg.bufCap → s.ops.inlen.toNat ≤ s.cfg.maxPayload →
      s.ops.outcap.toNat < 8 + s.ops.inlen.toNat →
      ∃ t, exec .build s = .next t ∧ FailedWith .build .outputTooSmall s t ∧ KeepsHostOwned s t ∧ KeepsContext s t ∧
        KeepsBus s t ∧ KeepsHidden s t) ∧
    (∀ payload, s.ops.outcap.toNat ≤ s.cfg.bufCap → s.ops.inlen.toNat ≤ s.cfg.maxPayload →
      8 + s.ops.inlen.toNat ≤ s.ops.outcap.toNat → readInbuf 0 s.ops.inlen.toNat s = some payload →
      ∃ t, exec .build s = .next t ∧ Succeeded .build t ∧ t.crcout = 0 ∧
        t.outlen.toNat = 8 + s.ops.inlen.toNat ∧
        Wrote s.outbuf t.outbuf 0 (commandFrame s.cfg s.ops.pOpcode s.ops.pParam1 s.ops.pParam2 payload) ∧
        Wrote s.txbuf t.txbuf 0 (commandFrame s.cfg s.ops.pOpcode s.ops.pParam1 s.ops.pParam2 payload) ∧
        t.txlen = 8 + s.ops.inlen.toNat ∧
        t.crcreg = crcReg (frameBody s.cfg s.ops.pOpcode s.ops.pParam1 s.ops.pParam2 payload) ∧
        KeepsHostOwned s t ∧ KeepsContext s t ∧ KeepsBus s t ∧ KeepsRx s t ∧ KeepsWork s t ∧ t.blk = 0)

/-- R104: the command PARSE, its errors in order and its result. What the hidden per-call registers hold afterwards is
the model's choice (log entry 8). -/
def Obligations.ParseCommandMeaning : Prop :=
  ∀ s : State,
    (s.cfg.rxCap < s.ops.inlen.toNat ∨ s.cfg.bufCap < s.ops.outcap.toNat →
      ∃ t, exec .parse s = .next t ∧ FailedWith .parse .invalidParameter s t ∧ KeepsHostOwned s t ∧ KeepsContext s t ∧
        KeepsBus s t ∧ KeepsHidden s t) ∧
    (s.ops.inlen.toNat ≤ s.cfg.rxCap → s.ops.outcap.toNat ≤ s.cfg.bufCap → 3 ≤ s.ops.inlen.toNat →
      s.ops.outcap.toNat < s.ops.inlen.toNat - 3 →
      ∃ t, exec .parse s = .next t ∧ FailedWith .parse .outputTooSmall s t ∧ KeepsHostOwned s t ∧ KeepsContext s t ∧
        KeepsBus s t ∧ KeepsHidden s t) ∧
    (∀ raw, s.ops.inlen.toNat ≤ s.cfg.rxCap → s.ops.outcap.toNat ≤ s.cfg.bufCap →
      s.ops.inlen.toNat ≤ s.ops.outcap.toNat + 3 → readInbuf 0 s.ops.inlen.toNat s = some raw →
      (∀ p, parseResponse s.cfg raw = .ok p →
        ∃ t, exec .parse s = .next t ∧ Succeeded .parse t ∧ t.crcout = 0 ∧ t.outlen.toNat = p.length ∧
          Wrote s.outbuf t.outbuf 0 p ∧ Wrote s.rxbuf t.rxbuf 0 raw ∧ t.rxcnt = s.ops.inlen.toNat ∧
          t.attempts = s.attempts ∧ t.crcreg = crcReg (raw.take (raw.length - 2)) ∧ KeepsHostOwned s t ∧
          KeepsContext s t ∧ KeepsBus s t ∧ KeepsTx s t ∧ KeepsWork s t ∧ t.blk = 0) ∧
      (∀ e, parseResponse s.cfg raw = .error e →
        ∃ t, exec .parse s = .next t ∧ FailedWith .parse e s t ∧ Wrote s.rxbuf t.rxbuf 0 raw ∧
          t.rxcnt = s.ops.inlen.toNat ∧ t.attempts = s.attempts ∧
          t.crcreg = (if e = .crcMismatch then crcReg (raw.take (raw.length - 2)) else s.crcreg) ∧
          KeepsHostOwned s t ∧ KeepsContext s t ∧ KeepsBus s t ∧ KeepsTx s t ∧ KeepsWork s t ∧ t.blk = 0))

/-- R141 and R140: the command REQSIZE. What the hidden per-call registers hold afterwards is
the model's choice (log entry 8). -/
def Obligations.ReqsizeCommandMeaning : Prop :=
  ∀ s : State,
    (s.cfg.bufCap < s.ops.inlen.toNat →
      ∃ t, exec .reqsize s = .next t ∧ FailedWith .reqsize .invalidParameter s t ∧ KeepsHostOwned s t ∧
        KeepsContext s t ∧ KeepsBus s t ∧ KeepsHidden s t) ∧
    (s.ops.inlen.toNat ≤ s.cfg.bufCap → s.ops.pPad = 0 → s.ops.inlen.toNat % 16 ≠ 0 →
      ∃ t, exec .reqsize s = .next t ∧ FailedWith .reqsize .invalidInputLength s t ∧ KeepsHostOwned s t ∧
        KeepsContext s t ∧ KeepsBus s t ∧ KeepsHidden s t) ∧
    (s.ops.inlen.toNat ≤ s.cfg.bufCap → s.cfg.bufCap ≤ 65504 → (s.ops.pPad = 0 → s.ops.inlen.toNat % 16 = 0) →
      ∃ t, exec .reqsize s = .next t ∧ Succeeded .reqsize t ∧ t.crcout = 0 ∧
        t.outlen.toNat = (if s.ops.pPad = 0 then s.ops.inlen.toNat else (s.ops.inlen.toNat / 16 + 1) * 16) ∧
        t.outbuf = s.outbuf ∧ KeepsHostOwned s t ∧ KeepsContext s t ∧ KeepsBus s t ∧ KeepsHidden s t)

/-- R142: the command CTXSET, its one error and its result. What the hidden per-call registers hold afterwards is
the model's choice (log entry 8). -/
def Obligations.CtxsetCommandMeaning : Prop :=
  ∀ s : State,
    (s.ops.pMode = 1 → s.ops.pIvpresent = 0 →
      ∃ t, exec .ctxset s = .next t ∧ FailedWith .ctxset .ivMissing s t ∧ t.ctxValid = false ∧ t.ctx = s.ctx ∧
        KeepsHostOwned s t ∧ KeepsBus s t ∧ KeepsHidden s t) ∧
    (s.ops.pMode = 0 ∨ s.ops.pIvpresent = 1 →
      ∃ t, exec .ctxset s = .next t ∧ Succeeded .ctxset t ∧ t.outlen = 0 ∧ t.crcout = 0 ∧ t.ctxValid = true ∧
        t.ctx.mode = s.ops.pMode ∧ t.ctx.pad = s.ops.pPad ∧ t.ctx.slot = s.ops.pSlot ∧ t.ctx.keyIdx = s.ops.pKeyidx ∧
        t.ctx.iv = (if s.ops.pIvpresent = 1 then s.ops.pIv else 0) ∧ t.outbuf = s.outbuf ∧
        KeepsHostOwned s t ∧ KeepsBus s t ∧ KeepsHidden s t)

/-! ## Transport -/

/-- R111 and R110: the command SEND, its error and its trace. What the hidden per-call registers hold afterwards is
the model's choice (log entry 8). -/
def Obligations.SendCommandMeaning : Prop :=
  ∀ s : State,
    (s.cfg.bufCap < s.ops.inlen.toNat ∨ s.cfg.maxPayload < s.ops.inlen.toNat →
      ∃ t, exec .send s = .next t ∧ FailedWith .send .invalidParameter s t ∧ KeepsHostOwned s t ∧ KeepsContext s t ∧
        KeepsBus s t ∧ KeepsHidden s t) ∧
    (∀ payload, s.ops.inlen.toNat ≤ s.cfg.bufCap → s.ops.inlen.toNat ≤ s.cfg.maxPayload →
      readInbuf 0 s.ops.inlen.toNat s = some payload →
      ∃ t, exec .send s = .next t ∧ Succeeded .send t ∧ t.outlen = 0 ∧ t.crcout = 0 ∧ t.outbuf = s.outbuf ∧
        t.trace =
          s.trace ++ [.wake, .write (commandFrame s.cfg s.ops.pOpcode s.ops.pParam1 s.ops.pParam2 payload)] ∧
        t.answers = s.answers ∧
        Wrote s.txbuf t.txbuf 0 (commandFrame s.cfg s.ops.pOpcode s.ops.pParam1 s.ops.pParam2 payload) ∧
        t.txlen = 8 + s.ops.inlen.toNat ∧
        t.crcreg = crcReg (frameBody s.cfg s.ops.pOpcode s.ops.pParam1 s.ops.pParam2 payload) ∧
        KeepsHostOwned s t ∧ KeepsContext s t ∧ KeepsRx s t ∧ KeepsWork s t ∧ t.blk = 0)

/-- R113, R115 to R118, R121: the shape of every receive, whatever the oracle answers, and what its outcome depends on:
the bytes collected, not their chunks. -/
def Obligations.ReceiveTraceAndOutcome : Prop :=
  ∀ (e : Nat) (s : State),
    ∃ cs : List Bytes, cs.length ≤ 20 ∧ chunksPartial e cs ∧
      (receive e s).2.trace = s.trace ++ readEvents e cs ++ [.idle] ∧
      (receive e s).2.attempts = cs.length ∧ (receive e s).2.rxcnt = cs.flatten.length ∧
      (receive e s).2.rxbuf.readBytes 0 cs.flatten.length = some cs.flatten ∧
      (cs.flatten.length < e → cs.length = 20) ∧
      (cs.flatten.length < e ∨ cs.flatten.length = 0 → (receive e s).1 = .error .timeout) ∧
      (cs.flatten.length = e → 0 < e → (receive e s).1 = parseResponse s.cfg cs.flatten)

/-- R116: a stub bus that never satisfies a chunk request makes `receive` fail with `Timeout` after exactly 20 chunk
attempts. -/
def Obligations.SilentBusTimesOutAfterTwentyRequests : Prop :=
  ∀ (e : Nat) (s : State) (rest : List Bytes), 0 < e → s.answers = List.replicate 20 [] ++ rest →
    (receive e s).1 = .error .timeout ∧
      (receive e s).2.trace = s.trace ++ List.replicate 20 (.read (min 32 e) []) ++ [.idle] ∧
      (receive e s).2.attempts = 20 ∧ (receive e s).2.rxcnt = 0 ∧ (receive e s).2.answers = rest

/-- R114 with R113, R115 to R117, R121: RECEIVE, however the bus splits the response into at most 20 chunks. First: when the
chunks together are the response frame of a payload, it releases that payload. Second: for any chunks that a receive of
`P_EXPLEN` bytes can get, the command completes with `Timeout` when bytes are missing after 20 requests or none was asked
for, else with what the parser says of the bytes collected: `CountMismatch`, `CrcMismatch`, or the payload. What the hidden
per-call registers hold afterwards is the model's choice (log entry 8). -/
def Obligations.ReceiveReleasesPayloadForAnyChunking : Prop :=
  (∀ (s : State) (p : Bytes) (cs rest : List Bytes),
    s.ops.pExplen.toNat ≤ s.cfg.rxCap → s.ops.outcap.toNat ≤ s.cfg.bufCap →
    s.ops.pExplen.toNat ≤ s.ops.outcap.toNat + 3 → p.length + s.cfg.countSelf.toNat ≤ 253 →
    cs.length ≤ 20 → chunksFit s.ops.pExplen.toNat cs → cs.flatten = respFrame s.cfg p → s.answers = cs ++ rest →
    ∃ t, exec .receive s = .next t ∧ Succeeded .receive t ∧ t.crcout = 0 ∧ t.outlen.toNat = p.length ∧
      s.ops.pExplen.toNat = p.length + 3 ∧ Wrote s.outbuf t.outbuf 0 p ∧
      t.trace = s.trace ++ readEvents s.ops.pExplen.toNat cs ++ [.idle] ∧ t.answers = rest ∧
      Wrote s.rxbuf t.rxbuf 0 (respFrame s.cfg p) ∧ t.rxcnt = s.ops.pExplen.toNat ∧ t.attempts = cs.length ∧
      t.crcreg = crcReg ((respFrame s.cfg p).take (p.length + 1)) ∧
      KeepsHostOwned s t ∧ KeepsContext s t ∧ KeepsTx s t ∧ KeepsWork s t ∧ t.blk = 0) ∧
  ∀ (s : State) (cs rest : List Bytes),
    s.ops.pExplen.toNat ≤ s.cfg.rxCap → s.ops.outcap.toNat ≤ s.cfg.bufCap →
    s.ops.pExplen.toNat ≤ s.ops.outcap.toNat + 3 →
    cs.length ≤ 20 → chunksPartial s.ops.pExplen.toNat cs →
    (cs.flatten.length < s.ops.pExplen.toNat → cs.length = 20) → s.answers = cs ++ rest →
    ∃ t, exec .receive s = .next t ∧
      (cs.flatten.length < s.ops.pExplen.toNat ∨ s.ops.pExplen = 0 →
        FailedWith .receive .timeout s t ∧ t.crcreg = s.crcreg) ∧
      (cs.flatten.length = s.ops.pExplen.toNat → s.ops.pExplen ≠ 0 →
        (∀ e, parseResponse s.cfg cs.flatten = .error e →
          FailedWith .receive e s t ∧
            t.crcreg = (if e = .crcMismatch then crcReg (cs.flatten.take (cs.flatten.length - 2)) else s.crcreg)) ∧
        (∀ p, parseResponse s.cfg cs.flatten = .ok p →
          Succeeded .receive t ∧ t.crcout = 0 ∧ t.outlen.toNat = p.length ∧ Wrote s.outbuf t.outbuf 0 p ∧
            t.crcreg = crcReg (cs.flatten.take (cs.flatten.length - 2)))) ∧
      t.trace = s.trace ++ readEvents s.ops.pExplen.toNat cs ++ [.idle] ∧ t.answers = rest ∧
      Wrote s.rxbuf t.rxbuf 0 cs.flatten ∧ t.rxcnt = cs.flatten.length ∧ t.attempts = cs.length ∧
      KeepsHostOwned s t ∧ KeepsContext s t ∧ KeepsTx s t ∧ KeepsWork s t ∧ t.blk = 0

/-! ## The single block -/

/-- R134 with R130 to R132: CRYPTBLOCK sends one frame that carries the block, waits, and releases the 16 bytes of the
response, however the bus splits it. What the hidden per-call registers hold afterwards is the model's choice (log entry
8); that `BLK` is then still 0 is read from R23 and R134 against the table of R161 (log entry 7). -/
def Obligations.CryptblockReleasesTheDevicesBlock : Prop :=
  ∀ (s : State) (x p : Bytes) (cs rest : List Bytes),
    s.cfg.Legal → s.ops.inlen = 16 → 16 ≤ s.ops.outcap.toNat → s.ops.outcap.toNat ≤ s.cfg.bufCap →
    s.ops.pSlot.toNat ≤ 15 → s.ops.pKeyidx.toNat ≤ 3 → readInbuf 0 16 s = some x → p.length = 16 →
    cs.length ≤ 20 → chunksFit 19 cs → cs.flatten = respFrame s.cfg p → s.answers = cs ++ rest →
    ∃ t, exec .cryptblock s = .next t ∧ Succeeded .cryptblock t ∧ t.crcout = 0 ∧ t.outlen = 16 ∧
      Wrote s.outbuf t.outbuf 0 p ∧
      t.trace =
        s.trace ++
          [.wake, .write (cryptFrame s.cfg s.ops.pSlot s.ops.pKeyidx (directionOfBit s.ops.pDir) x), .execWait] ++
          readEvents 19 cs ++ [.idle] ∧
      t.answers = rest ∧
      Wrote s.txbuf t.txbuf 0 (cryptFrame s.cfg s.ops.pSlot s.ops.pKeyidx (directionOfBit s.ops.pDir) x) ∧
      t.txlen = 24 ∧ Wrote s.rxbuf t.rxbuf 0 (respFrame s.cfg p) ∧ t.rxcnt = 19 ∧ t.attempts = cs.length ∧
      t.crcreg = crcReg ((respFrame s.cfg p).take 17) ∧
      KeepsHostOwned s t ∧ KeepsContext s t ∧ KeepsWork s t ∧ t.blk = 0

/-- R133: a status frame with a status that is not 0, then silence, is a `DeviceError` that surfaces the status as it is;
with status 0 the `Timeout` stands. Second, for any chunks that make a block fail (`FailsBlock`: too few bytes, a wrong
count, a wrong CRC, a status frame): CRYPTBLOCK completes with that error, after the one frame and the requests. The
transport's registers (`CRCREG`, `TXBUF`, `TXLEN`, `RXBUF`, `RXCNT`, `ATTEMPTS`) are what the block left in them (U8; log
entry 8). Which error is reported is the spec's own choice (U2). -/
def Obligations.StatusFrameBecomesDeviceError : Prop :=
  (∀ (s : State) (x : Bytes) (status : Byte) (rest : List Bytes),
    s.cfg.Legal → s.ops.inlen = 16 → 16 ≤ s.ops.outcap.toNat → s.ops.outcap.toNat ≤ s.cfg.bufCap →
    s.ops.pSlot.toNat ≤ 15 → s.ops.pKeyidx.toNat ≤ 3 → readInbuf 0 16 s = some x →
    s.answers = respFrame s.cfg [status] :: (List.replicate 19 [] ++ rest) →
    ∃ t, exec .cryptblock s = .next t ∧
      (status ≠ 0 → FailedWith .cryptblock (.deviceError status) s t ∧ t.err = 0x10 ∧ t.devstat = status) ∧
      (status = 0 → FailedWith .cryptblock .timeout s t ∧ t.err = 0x01 ∧ t.devstat = 0) ∧
      t.trace =
        s.trace ++
          [.wake, .write (cryptFrame s.cfg s.ops.pSlot s.ops.pKeyidx (directionOfBit s.ops.pDir) x), .execWait,
            .read 19 (respFrame s.cfg [status])] ++
          List.replicate 19 (.read 15 []) ++ [.idle] ∧
      t.answers = rest ∧ KeepsHostOwned s t ∧ KeepsContext s t ∧ KeepsWork s t) ∧
  ∀ (s : State) (x : Bytes) (ch rest : List Bytes) (e : Err),
    s.cfg.Legal → s.ops.inlen = 16 → 16 ≤ s.ops.outcap.toNat → s.ops.outcap.toNat ≤ s.cfg.bufCap →
    s.ops.pSlot.toNat ≤ 15 → s.ops.pKeyidx.toNat ≤ 3 → readInbuf 0 16 s = some x →
    FailsBlock s.cfg ch e → s.answers = ch ++ rest →
    ∃ t, exec .cryptblock s = .next t ∧ FailedWith .cryptblock e s t ∧
      t.trace = s.trace ++ blockEvents s.cfg s.ops.pSlot s.ops.pKeyidx (directionOfBit s.ops.pDir) x ch ∧
      t.answers = rest ∧ KeepsHostOwned s t ∧ KeepsContext s t ∧ KeepsWork s t

/-! ## Cipher modes -/

/-- R140: the size policy. -/
def Obligations.OutputSizePolicy : Prop :=
  ∀ n : Nat,
    (n % 16 = 0 → requiredOutputSize n .noPad = .ok n) ∧
    (n % 16 ≠ 0 → requiredOutputSize n .noPad = .error .invalidInputLength) ∧
    ∃ m, requiredOutputSize n .pkcs7 = .ok m ∧ m = (n / 16 + 1) * 16 ∧ m % 16 = 0 ∧ n < m ∧ m ≤ n + 16

/-- R144: PKCS#7 padding. -/
def Obligations.PaddingFillsTheLastBlock : Prop :=
  ∀ pt : Bytes, ∃ k : Nat,
    1 ≤ k ∧ k ≤ 16 ∧ k = 16 - pt.length % 16 ∧ pad7 pt = pt ++ rep (BitVec.ofNat 8 k) k ∧
      (pad7 pt).length = (pt.length / 16 + 1) * 16 ∧ (pt.length % 16 = 0 → pad7 pt = pt ++ rep 0x10 16)

/-- R145: unpadding a buffer of whole blocks succeeds exactly when it ends in `k` bytes of value `k`, 1 to 16, and
removes them; any other buffer is a `PaddingError`. -/
def Obligations.UnpadAcceptsExactlyPaddedBuffers : Prop :=
  ∀ d : Bytes, d.length % 16 = 0 →
    (∀ r, unpad7 d = .ok r ↔ ∃ k : Nat, 1 ≤ k ∧ k ≤ 16 ∧ d = r ++ rep (BitVec.ofNat 8 k) k) ∧
    (∀ e, unpad7 d = .error e → e = .paddingError)

/-- R145: unpadding inverts padding. -/
def Obligations.UnpadInvertsPad : Prop := ∀ pt : Bytes, unpad7 (pad7 pt) = .ok pt

/-- R147 to R150: ENCRYPT with a device that brings the first blocks back as `cs`, each in any chunks. The frames it sends
carry the plaintext blocks (ECB), or each exclusive-ored with the ciphertext block before it, the IV before the first
(CBC). When all blocks came back, their concatenation is released. When the next block fails with the error `e`, the command
completes with that error at once: the trace keeps the events of the blocks before and of the failing one, no frame is sent
for a later block, nothing is released. Either way WORK and CV are wiped. `CRCREG`, `TXLEN`, `RXCNT`, `ATTEMPTS` and the
transport buffers below 24 and 19 are what the last block left in them (U8; log entry 8); `BLK` is the number of blocks that
came back (log entry 7). -/
def Obligations.EncryptChainsTheDevicesBlocks : Prop :=
  ∀ (s : State) (data : Bytes) (total : Nat) (css : List (List Bytes)) (cs rest : List Bytes),
    s.cfg.Legal → s.ctxValid = true → s.ops.inlen.toNat ≤ s.cfg.bufCap → s.ops.outcap.toNat ≤ s.cfg.bufCap →
    requiredOutputSize s.ops.inlen.toNat (paddingOfBit s.ctx.pad) = .ok total → total ≤ s.ops.outcap.toNat →
    s.ctx.slot.toNat ≤ 15 → s.ctx.keyIdx.toNat ≤ 3 → readInbuf 0 s.ops.inlen.toNat s = some data →
    List.Forall₂ (AnswersBlock s.cfg) css cs →
    let sent := sentBlocks (modeOfBit s.ctx.mode) (bytesOfIv s.ctx.iv)
      (blocksOf (total / 16) (if s.ctx.pad = 0 then data else pad7 data)) cs
    let kept : State → Prop := fun t =>
      t.answers = rest ∧ t.Wiped ∧ t.blk = cs.length ∧ KeepsHostOwned s t ∧ KeepsContext s t ∧
        (∀ a, 24 ≤ a → t.txbuf.read a = s.txbuf.read a) ∧ (∀ a, 19 ≤ a → t.rxbuf.read a = s.rxbuf.read a) ∧
        (∀ a, s.cfg.bufCap + 16 ≤ a → t.work.read a = s.work.read a)
    (cs.length = total / 16 → s.answers = css.flatten ++ rest →
      ∃ t, exec .encrypt s = .next t ∧ Succeeded .encrypt t ∧ t.crcout = 0 ∧ t.outlen.toNat = total ∧
        Wrote s.outbuf t.outbuf 0 cs.flatten ∧ cs.flatten.length = total ∧
        t.trace = s.trace ++ (List.zipWith (blockEvents s.cfg s.ctx.slot s.ctx.keyIdx .encrypt) sent css).flatten ∧
        kept t) ∧
    (∀ (ch : List Bytes) (e : Err), cs.length < total / 16 → FailsBlock s.cfg ch e →
      s.answers = css.flatten ++ ch ++ rest →
      ∃ t, exec .encrypt s = .next t ∧ FailedWith .encrypt e s t ∧
        t.trace =
          s.trace ++ (List.zipWith (blockEvents s.cfg s.ctx.slot s.ctx.keyIdx .encrypt) sent (css ++ [ch])).flatten ∧
        kept t)

/-- R150 to R153: DECRYPT with a device that brings the first blocks back as `ds`, each in any chunks. The frames carry the
ciphertext blocks; the plaintext blocks are the answers (ECB), or each exclusive-ored with the ciphertext block before it,
the IV before the first (CBC). When all blocks came back: with padding None all of it is released, with PKCS7 what `unpad7`
leaves of it, and on `PaddingError` nothing. When the next block fails with the error `e`, the command completes with that
error at once, nothing is sent for a later block, nothing is released. The hidden registers are as for ENCRYPT (log entries
7, 8). -/
def Obligations.DecryptChainsTheDevicesBlocks : Prop :=
  ∀ (s : State) (data : Bytes) (css : List (List Bytes)) (ds rest : List Bytes),
    s.cfg.Legal → s.ctxValid = true → s.ops.inlen.toNat ≤ s.ops.outcap.toNat → s.ops.outcap.toNat ≤ s.cfg.bufCap →
    s.ops.inlen.toNat % 16 = 0 → s.ctx.slot.toNat ≤ 15 → s.ctx.keyIdx.toNat ≤ 3 →
    readInbuf 0 s.ops.inlen.toNat s = some data → List.Forall₂ (AnswersBlock s.cfg) css ds →
    let cs := blocksOf (s.ops.inlen.toNat / 16) data
    let plain := (plainBlocks (modeOfBit s.ctx.mode) (bytesOfIv s.ctx.iv) cs ds).flatten
    let kept : State → Prop := fun t =>
      t.answers = rest ∧ t.Wiped ∧ t.blk = ds.length ∧ KeepsHostOwned s t ∧ KeepsContext s t ∧
        (∀ a, 24 ≤ a → t.txbuf.read a = s.txbuf.read a) ∧ (∀ a, 19 ≤ a → t.rxbuf.read a = s.rxbuf.read a) ∧
        (∀ a, s.cfg.bufCap + 16 ≤ a → t.work.read a = s.work.read a)
    (ds.length = s.ops.inlen.toNat / 16 → s.answers = css.flatten ++ rest →
      ∃ t, exec .decrypt s = .next t ∧ t.crcout = 0 ∧
        (∀ out, (if s.ctx.pad = 0 then .ok plain else unpad7 plain) = Except.ok out →
          Succeeded .decrypt t ∧ t.outlen.toNat = out.length ∧ Wrote s.outbuf t.outbuf 0 out) ∧
        (∀ e, (if s.ctx.pad = 0 then .ok plain else unpad7 plain) = Except.error e →
          FailedWith .decrypt .paddingError s t) ∧
        t.trace = s.trace ++ (List.zipWith (blockEvents s.cfg s.ctx.slot s.ctx.keyIdx .decrypt) cs css).flatten ∧
        kept t) ∧
    (∀ (ch : List Bytes) (e : Err), ds.length < s.ops.inlen.toNat / 16 → FailsBlock s.cfg ch e →
      s.answers = css.flatten ++ ch ++ rest →
      ∃ t, exec .decrypt s = .next t ∧ FailedWith .decrypt e s t ∧
        t.trace =
          s.trace ++ (List.zipWith (blockEvents s.cfg s.ctx.slot s.ctx.keyIdx .decrypt) cs (css ++ [ch])).flatten ∧
        kept t)

/-- R156: the round trip. With a device whose decryption inverts its encryption, DECRYPT of what ENCRYPT released gives
back the plaintext, in every mode and padding. -/
def Obligations.DecryptInvertsEncrypt : Prop :=
  ∀ (enc dec : Bytes → Bytes) (s : State) (data : Bytes) (total : Nat),
    (∀ x, x.length = 16 → (enc x).length = 16 ∧ dec (enc x) = x) →
    s.cfg.Legal → s.ctxValid = true → s.ops.inlen.toNat ≤ s.cfg.bufCap → s.ops.outcap.toNat ≤ s.cfg.bufCap →
    requiredOutputSize s.ops.inlen.toNat (paddingOfBit s.ctx.pad) = .ok total → total ≤ s.ops.outcap.toNat →
    s.ctx.slot.toNat ≤ 15 → s.ctx.keyIdx.toNat ≤ 3 → readInbuf 0 s.ops.inlen.toNat s = some data →
    s.answers =
      (encChain enc (modeOfBit s.ctx.mode) (bytesOfIv s.ctx.iv)
        (blocksOf (total / 16) (if s.ctx.pad = 0 then data else pad7 data))).map (respFrame s.cfg) →
    ∃ t out, exec .encrypt s = .next t ∧ Succeeded .encrypt t ∧ t.outlen.toNat = total ∧
      t.outbuf.readBytes 0 total = some out ∧
      ∀ s' : State,
        s'.cfg = s.cfg → s'.ctx = s.ctx → s'.ctxValid = true → s'.ops.inlen = t.outlen →
        total ≤ s'.ops.outcap.toNat → s'.ops.outcap.toNat ≤ s.cfg.bufCap → readInbuf 0 total s' = some out →
        s'.answers = (blocksOf (total / 16) out).map (fun c => respFrame s.cfg (dec c)) →
        ∃ u, exec .decrypt s' = .next u ∧ Succeeded .decrypt u ∧ u.outlen = s.ops.inlen ∧
          u.outbuf.readBytes 0 s.ops.inlen.toNat = some data

/-- R23: at every completion of ENCRYPT or DECRYPT, successful or not, nothing of the call survives. -/
def Obligations.CipherCommandsWipeTheirScratch : Prop :=
  ∀ (i : Instr) (s t : State), i = .encrypt ∨ i = .decrypt → exec i s = .next t → t.Wiped

/-! ## Whole-machine rules over all commands -/

/-- R173: a validation error is reported before any bus activity and changes nothing but the results; the first check
that fails, in the order of the table, is the one reported. That the hidden registers are left alone is the model's choice (log
entry 8). -/
def Obligations.ValidationErrorsStayLocal : Prop :=
  ∀ (i : Instr) (s : State) (e : Err), validate i s = some e →
    ∃ t, exec i s = .next t ∧ FailedWith i e s t ∧ KeepsHostOwned s t ∧ KeepsBus s t ∧ KeepsTx s t ∧ KeepsRx s t ∧
      t.ctx = s.ctx ∧ t.crcreg = s.crcreg ∧ (i ≠ .ctxset → t.ctxValid = s.ctxValid) ∧
      (i ≠ .encrypt → i ≠ .decrypt → KeepsWork s t)

/-- The table of R173, as conditions on the registers, row by row. -/
def Obligations.ValidationTable : Prop :=
  ∀ s : State,
    (validate .crc16 s = if s.cfg.bufCap < s.ops.inlen.toNat then some .invalidParameter else none) ∧
    (validate .build s =
      if s.cfg.bufCap < s.ops.inlen.toNat ∨ s.cfg.bufCap < s.ops.outcap.toNat then some .invalidParameter
      else if s.cfg.maxPayload < s.ops.inlen.toNat then some .invalidParameter
      else if s.ops.outcap.toNat < 8 + s.ops.inlen.toNat then some .outputTooSmall else none) ∧
    (validate .parse s =
      if s.cfg.rxCap < s.ops.inlen.toNat ∨ s.cfg.bufCap < s.ops.outcap.toNat then some .invalidParameter
      else if 3 ≤ s.ops.inlen.toNat ∧ s.ops.outcap.toNat < s.ops.inlen.toNat - 3 then some .outputTooSmall else none) ∧
    (validate .send s =
      if s.cfg.bufCap < s.ops.inlen.toNat then some .invalidParameter
      else if s.cfg.maxPayload < s.ops.inlen.toNat then some .invalidParameter else none) ∧
    (validate .receive s =
      if s.cfg.rxCap < s.ops.pExplen.toNat ∨ s.cfg.bufCap < s.ops.outcap.toNat then some .invalidParameter
      else if 3 ≤ s.ops.pExplen.toNat ∧ s.ops.outcap.toNat < s.ops.pExplen.toNat - 3 then some .outputTooSmall
      else none) ∧
    (validate .cryptblock s =
      if s.cfg.bufCap < s.ops.inlen.toNat ∨ s.cfg.bufCap < s.ops.outcap.toNat then some .invalidParameter
      else if s.ops.inlen.toNat < 16 then some .inputTooSmall
      else if 16 < s.ops.inlen.toNat then some .invalidInputLength
      else if s.ops.outcap.toNat < 16 then some .outputTooSmall
      else if 15 < s.ops.pSlot.toNat then some .invalidParameter
      else if 3 < s.ops.pKeyidx.toNat then some .invalidParameter else none) ∧
    (validate .reqsize s =
      if s.cfg.bufCap < s.ops.inlen.toNat then some .invalidParameter
      else if s.ops.pPad = 0 ∧ s.ops.inlen.toNat % 16 ≠ 0 then some .invalidInputLength else none) ∧
    (validate .ctxset s = if s.ops.pMode = 1 ∧ s.ops.pIvpresent = 0 then some .ivMissing else none) ∧
    (validate .encrypt s =
      if s.cfg.bufCap < s.ops.inlen.toNat ∨ s.cfg.bufCap < s.ops.outcap.toNat then some .invalidParameter
      else if s.ctxValid = false then some .invalidParameter
      else if s.ctx.pad = 0 ∧ s.ops.inlen.toNat % 16 ≠ 0 then some .invalidInputLength
      else if s.ops.outcap.toNat <
          (if s.ctx.pad = 0 then s.ops.inlen.toNat else (s.ops.inlen.toNat / 16 + 1) * 16) then some .outputTooSmall
      else if 15 < s.ctx.slot.toNat then some .invalidParameter
      else if 3 < s.ctx.keyIdx.toNat then some .invalidParameter else none) ∧
    (validate .decrypt s =
      if s.cfg.bufCap < s.ops.inlen.toNat ∨ s.cfg.bufCap < s.ops.outcap.toNat then some .invalidParameter
      else if s.ctxValid = false then some .invalidParameter
      else if s.ops.inlen.toNat % 16 ≠ 0 then some .invalidInputLength
      else if s.ops.outcap.toNat < s.ops.inlen.toNat then some .outputTooSmall
      else if 15 < s.ctx.slot.toNat then some .invalidParameter
      else if 3 < s.ctx.keyIdx.toNat then some .invalidParameter else none)

/-- R41, R203: no command writes INBUF or an operand register, or any other thing the host owns. -/
def Obligations.CommandsKeepWhatTheHostOwns : Prop :=
  ∀ (i : Instr) (s t : State), exec i s = .next t → KeepsHostOwned s t

/-- R16: only CTXSET writes the context, and a failed CTXSET clears `CTX_VALID` and keeps the context registers. -/
def Obligations.OnlyCtxsetWritesTheContext : Prop :=
  ∀ (i : Instr) (s t : State), exec i s = .next t →
    (i ≠ .ctxset → KeepsContext s t) ∧ (i = .ctxset → t.errf = true → t.ctx = s.ctx ∧ t.ctxValid = false)

/-- R13, R17, R42, R166, R176, R180: every completion sets `DONE` and clears `BUSY`; one with an error leaves OUTBUF and
the context registers, and `OUTLEN` and `CRCOUT` at 0; one without leaves `ERR` and `DEVSTAT` at 0. -/
def Obligations.EveryCompletionIsUniform : Prop :=
  ∀ (i : Instr) (s t : State), exec i s = .next t →
    Completed i t ∧ (t.errf = true ↔ t.err ≠ 0) ∧ t.err ∈ errCodes ∧ (t.devstat ≠ 0 ↔ t.err = 0x10) ∧
      (t.errf = true → t.outlen = 0 ∧ t.crcout = 0 ∧ t.outbuf = s.outbuf ∧ t.ctx = s.ctx)

/-- R42: a command that succeeds writes exactly `OUTBUF[0..OUTLEN)`, and nothing above it. -/
def Obligations.OutbufIsWrittenBelowOutlenOnly : Prop :=
  ∀ (i : Instr) (s t : State), exec i s = .next t → ∀ a, t.outlen.toNat ≤ a →
    t.outbuf.read a = s.outbuf.read a

/-- R168: whatever the oracle answers, a command makes at most `(BUF_CAP div 16) * 24` bus events. -/
def Obligations.BusEventsAreBounded : Prop :=
  ∀ (i : Instr) (s t : State), s.cfg.Legal → exec i s = .next t →
    ∃ evs, t.trace = s.trace ++ evs ∧ evs.length ≤ s.cfg.bufCap / 16 * 24

/-- R24: what a command reports, and what it does on the bus, depends on nothing an earlier command left in the hidden
registers (`CRCREG`, `TXBUF`, `RXBUF`, `WORK`, `CV`, the counters), nor on the results of the earlier command. -/
def Obligations.HiddenStateNeverLeaks : Prop :=
  ∀ (i : Instr) (s s' t : State), AgreeOnPersistent s s' → exec i s = .next t →
    ∃ t', exec i s' = .next t' ∧ AgreeOnResults t t'

/-- R26, R41: a command that would read a byte of INBUF the host has not written since reset is refused: the five commands
that read `INBUF[0..INLEN)` at once, CRYPTBLOCK, which reads 16 bytes, and DECRYPT, which reads block after block (log entry
11) and so is refused at the block with the byte, the blocks before it having come back. -/
def Obligations.UnwrittenInputIsRefused : Prop :=
  (∀ (i : Instr) (s : State), i = .crc16 ∨ i = .build ∨ i = .parse ∨ i = .send ∨ i = .encrypt →
    validate i s = none → readInbuf 0 s.ops.inlen.toNat s = none → exec i s = .refused .inbufUnwritten) ∧
  (∀ s : State, validate .cryptblock s = none → readInbuf 0 16 s = none →
    exec .cryptblock s = .refused .inbufUnwritten) ∧
  ∀ (s : State) (css : List (List Bytes)) (ds rest : List Bytes),
    s.cfg.Legal → validate .decrypt s = none → List.Forall₂ (AnswersBlock s.cfg) css ds →
    s.answers = css.flatten ++ rest → ds.length < s.ops.inlen.toNat / 16 →
    (readInbuf 0 (16 * ds.length) s).isSome = true → readInbuf (16 * ds.length) 16 s = none →
    exec .decrypt s = .refused .inbufUnwritten

/-- R168: whatever the oracle answers, a command whose input bytes have been written completes. RECEIVE, REQSIZE and CTXSET
read no byte of INBUF. -/
def Obligations.EveryCommandCompletes : Prop :=
  ∀ (i : Instr) (s : State),
    (i = .receive ∨ i = .reqsize ∨ i = .ctxset ∨ ∃ data, readInbuf 0 s.ops.inlen.toNat s = some data) →
    ∃ t, exec i s = .next t ∧ (Succeeded i t ∨ ∃ e, FailedWith i e s t)

/-! ## The sequencer -/

/-- R161, R162: for the commands without the block loop or a receive, some number of transitions from the start reaches
exactly what the atomic command gives That the command is one step at all is the model's choice of R10's two (log entry
1). -/
def Obligations.SequencerRefinesLocalCommands : Prop :=
  ∀ (i : Instr) (s : State),
    i = .crc16 ∨ i = .build ∨ i = .parse ∨ i = .reqsize ∨ i = .ctxset ∨ i = .send →
    ∃ n, seqRun n (startCommand (encode i) s) = exec i s

/-- R161 to R163: the same for RECEIVE and CRYPTBLOCK, through the retry loop (log entry 1). For CRYPTBLOCK both leave `BLK`
alone, against the table of R161 (log entry 7). -/
def Obligations.SequencerRefinesReceiveAndCryptblock : Prop :=
  ∀ (i : Instr) (s : State), i = .receive ∨ i = .cryptblock →
    ∃ n, seqRun n (startCommand (encode i) s) = exec i s

/-- R161 to R165: the same for ENCRYPT and DECRYPT, through the block loop (log entries 1, 7). -/
def Obligations.SequencerRefinesCipherCommands : Prop :=
  ∀ (i : Instr) (s : State), i = .encrypt ∨ i = .decrypt →
    ∃ n, seqRun n (startCommand (encode i) s) = exec i s

/-! ## The step and the host port -/

/-- R10, R160: when the host writes the code of a command while `BUSY = 0` and waits, the step is the command. When the host
writes register 0 (`CMD`) without waiting while `BUSY = 0`, the step is the start of R160, field by field (`pend` and
`plainLen` are latches, log entry 6; a value above 8 bits keeps its low byte, log entry 14), which is where the sequencer's
runs begin. The rest of the step is the model's convention (log entries 1, 2, 12): with no action queued, or while the host
waits for a running command, the step is one transition of the sequencer; so is a `tick`; a wait ends when `BUSY = 0`; a
`cmd` line met while `BUSY = 1` goes on as a wait. -/
def Obligations.StepRunsTheCommandWritten : Prop :=
  (∀ (s : State) (v : Byte) (i : Instr) (rest : List HostAction),
    s.hostq = .cmd v :: rest → s.busy = false → decode v = .ok i →
    Sys2Proof.Machine.step s = exec i { s with hostq := rest }) ∧
  (∀ (s : State) (i : Instr),
    Sys2Proof.Machine.step (s.withFetchWord 8 (encode i).toNat) = exec i { s with busy := false, seq := .sIdle }) ∧
  (∀ (s : State) (v : Word128) (rest : List HostAction),
    s.hostq = .wr 0 v :: rest → s.busy = false →
    Sys2Proof.Machine.step s = .next (startCommand (v.setWidth 8) { s with hostq := rest }) ∧
    Sys2Proof.Machine.step s =
      .next { s with
        hostq := rest, busy := true, done := false, errf := false, err := 0x00, devstat := 0x00, outlen := 0x0000,
        crcout := 0x0000, blk := 0, cur := v.setWidth 8, seq := .sValidate, pend := none, plainLen := 0 }) ∧
  ∀ (s : State) (v : Byte) (rest : List HostAction),
    (s.hostq = [] → Sys2Proof.Machine.step s = seqStep s) ∧
    (s.hostq = .tick :: rest → Sys2Proof.Machine.step s = seqStep { s with hostq := rest }) ∧
    (s.hostq = .wait :: rest → s.busy = true → Sys2Proof.Machine.step s = seqStep s) ∧
    (s.hostq = .wait :: rest → s.busy = false → Sys2Proof.Machine.step s = .next { s with hostq := rest }) ∧
    (s.hostq = .cmd v :: rest → s.busy = true → Sys2Proof.Machine.step s = .next { s with hostq := .wait :: rest })

/-- R71: a reserved code starts and at once completes a command whose only effect is the error completion (the start
clears `BLK`, R160; the other hidden registers are left alone, log entry 8). The sequencer, started
with the same code, reaches the same state (R160). -/
def Obligations.ReservedCodeOnlyReportsAnError : Prop :=
  ∀ (s : State) (v : Byte) (rest : List HostAction),
    s.hostq = .cmd v :: rest → s.busy = false → v = 0x00 ∨ 0x0B ≤ v.toNat →
    ∃ t, Sys2Proof.Machine.step s = .next t ∧ t.err = 0x23 ∧ t.errf = true ∧ t.done = true ∧ t.busy = false ∧
      t.outlen = 0 ∧ t.crcout = 0 ∧ t.devstat = 0 ∧ t.seq = .sIdle ∧ t.outbuf = s.outbuf ∧ KeepsContext s t ∧
      KeepsBus s t ∧ KeepsHidden s t ∧ t.cfg = s.cfg ∧ t.ops = s.ops ∧ t.inbuf = s.inbuf ∧ t.hostq = rest ∧
      t.reads = s.reads ∧ t.era = s.era ∧
      ∃ n, seqRun n (startCommand v { s with hostq := rest }) = .next t

/-- R206: while `BUSY = 1` a host write has no effect and starts or queues no command, `STATUS` reads `BUSY = 1, DONE = 0`,
the results read 0 (log entry 10), and OUTBUF has no defined part: every read of a byte of it is refused (R26, log entry
19). -/
def Obligations.HostWritesAreIgnoredWhileBusy : Prop :=
  ∀ (s : State) (rest : List HostAction), s.busy = true →
    (∀ n v, s.hostq = .wr n v :: rest → Sys2Proof.Machine.step s = .next { s with hostq := rest }) ∧
    (∀ off bytes, s.hostq = .wrIn off bytes :: rest → off + bytes.length ≤ s.cfg.bufCap →
      Sys2Proof.Machine.step s = .next { s with hostq := rest }) ∧
    (∀ off n, s.hostq = .rdOut off n :: rest → off + n ≤ s.cfg.bufCap → 0 < n →
      Sys2Proof.Machine.step s = .refused .outbufUndefined) ∧
    (readRegNumber s 1).getLsbD 0 = true ∧ (readRegNumber s 1).getLsbD 1 = false ∧ readRegNumber s 2 = 0 ∧
    readRegNumber s 3 = 0 ∧ readRegNumber s 6 = 0 ∧ readRegNumber s 7 = 0

/-- R14, R13: what a host read of each register number returns while no command runs. -/
def Obligations.RegisterMapReads : Prop :=
  ∀ s : State, s.busy = false →
    readRegNumber s 0 = 0 ∧
    (readRegNumber s 1).toNat = 2 * s.done.toNat + 4 * s.errf.toNat + 8 * s.ctxValid.toNat ∧
    readRegNumber s 2 = s.err.setWidth 128 ∧ readRegNumber s 3 = s.devstat.setWidth 128 ∧
    readRegNumber s 4 = s.ops.inlen.setWidth 128 ∧ readRegNumber s 5 = s.ops.outcap.setWidth 128 ∧
    readRegNumber s 6 = s.outlen.setWidth 128 ∧ readRegNumber s 7 = s.crcout.setWidth 128 ∧
    readRegNumber s 8 = s.ops.pOpcode.setWidth 128 ∧ readRegNumber s 9 = s.ops.pParam1.setWidth 128 ∧
    readRegNumber s 10 = s.ops.pParam2.setWidth 128 ∧ readRegNumber s 11 = s.ops.pExplen.setWidth 128 ∧
    readRegNumber s 12 = s.ops.pSlot.setWidth 128 ∧ readRegNumber s 13 = s.ops.pKeyidx.setWidth 128 ∧
    readRegNumber s 14 = s.ops.pDir.setWidth 128 ∧ readRegNumber s 15 = s.ops.pMode.setWidth 128 ∧
    readRegNumber s 16 = s.ops.pPad.setWidth 128 ∧ readRegNumber s 17 = s.ops.pIvpresent.setWidth 128 ∧
    readRegNumber s 18 = s.ops.pIv ∧ readRegNumber s 19 = s.ctx.mode.setWidth 128 ∧
    readRegNumber s 20 = s.ctx.pad.setWidth 128 ∧ readRegNumber s 21 = s.ctx.slot.setWidth 128 ∧
    readRegNumber s 22 = s.ctx.keyIdx.setWidth 128 ∧ readRegNumber s 23 = s.ctx.iv ∧
    ∀ n : Byte, 24 ≤ n.toNat → readRegNumber s n = 0

/-- R14, R15: a register the host may write reads back as the value written, cut to its width (R14 says so for the 1-bit
registers; that a value too wide for an 8-bit or 16-bit register keeps its low bits is the model's choice, log entry 14),
and no other register changes. R19, R26: a host write of INBUF while `BUSY = 0` stores exactly the bytes given; a host read
of INBUF returns the bytes, and is refused when the host has not written one of them since reset (log entry 5). R75: a `rd`
line returns the register. An access that reaches past `BUF_CAP` is a fault (log entry 17). -/
def Obligations.RegisterReadsBackWhatWasWritten : Prop :=
  (∀ (s : State) (n : Byte) (v : Word128) (r : Reg) (rest : List HostAction),
    s.hostq = .wr n v :: rest → s.busy = false → regOfNumber n = some r → r ≠ .cmd → regHostWrites r = true →
    ∃ t, Sys2Proof.Machine.step s = .next t ∧ readRegNumber t n = BitVec.ofNat 128 (v.toNat % 2 ^ regWidth r) ∧
      (∀ m, m ≠ n → readRegNumber t m = readRegNumber s m) ∧ t = { s with hostq := rest, ops := t.ops }) ∧
  (∀ (s : State) (off : Nat) (bytes : Bytes) (rest : List HostAction),
    s.hostq = .wrIn off bytes :: rest → s.busy = false → off + bytes.length ≤ s.cfg.bufCap →
    ∃ t, Sys2Proof.Machine.step s = .next t ∧ Wrote s.inbuf t.inbuf off bytes ∧
      t = { s with hostq := rest, inbuf := t.inbuf }) ∧
  (∀ (s : State) (off n : Nat) (rest : List HostAction), s.hostq = .rdIn off n :: rest → off + n ≤ s.cfg.bufCap →
    (∀ bs : Bytes, bs.length = n → (∀ k, k < n → s.inbuf.read (off + k) = bs[k]?) →
      Sys2Proof.Machine.step s = .next { s with hostq := rest, reads := s.reads ++ [.inbuf off bs] }) ∧
    ((∃ k, k < n ∧ s.inbuf.read (off + k) = none) → Sys2Proof.Machine.step s = .refused .inbufUnwritten)) ∧
  (∀ (s : State) (n : Byte) (rest : List HostAction), s.hostq = .rd n :: rest →
    Sys2Proof.Machine.step s =
      .next { s with hostq := rest, reads := s.reads ++ [.reg n (readRegNumber s n)] }) ∧
  ∀ (s : State) (off n : Nat) (bytes : Bytes) (rest : List HostAction),
    (s.hostq = .wrIn off bytes :: rest → s.cfg.bufCap < off + bytes.length →
      Sys2Proof.Machine.step s = .fault .noSuchOffset) ∧
    (s.hostq = .rdIn off n :: rest ∨ s.hostq = .rdOut off n :: rest → s.cfg.bufCap < off + n →
      Sys2Proof.Machine.step s = .fault .noSuchOffset)

/-- R14: reserved register numbers are inert; a write to a register without host write access is the model's choice
(log entry 9): ignored. -/
def Obligations.UnwritableRegistersAreInert : Prop :=
  ∀ (s : State) (n : Byte) (v : Word128) (rest : List HostAction),
    (24 ≤ n.toNat → readRegNumber s n = 0) ∧ readRegNumber s 0 = 0 ∧
    (s.hostq = .wr n v :: rest → (∀ r, regOfNumber n = some r → regHostWrites r = false) →
      Sys2Proof.Machine.step s = .next { s with hostq := rest })

/-- R26, U9: the defined part of OUTBUF is `OUTBUF[0..OUTLEN)` after a successful BUILD, PARSE, RECEIVE, CRYPTBLOCK, ENCRYPT or
DECRYPT, and empty after any other completion, before the first, and while a command runs (read against the looser U3, log
entry 19). A host read of a byte outside it is refused; a read inside it returns the bytes; an empty read returns none
anywhere (log entry 22). Every byte of the defined part has a value after the command that defines it. -/
def Obligations.OutbufReadsStayInTheDefinedPart : Prop :=
  (∀ (s : State) (off n : Nat) (rest : List HostAction), s.hostq = .rdOut off n :: rest → off + n ≤ s.cfg.bufCap →
    let defined :=
      if s.done = true ∧ s.busy = false ∧ s.errf = false ∧
          (s.cur = 0x02 ∨ s.cur = 0x03 ∨ s.cur = 0x05 ∨ s.cur = 0x06 ∨ s.cur = 0x09 ∨ s.cur = 0x0A)
      then s.outlen.toNat else 0
    (0 < n → defined < off + n → Sys2Proof.Machine.step s = .refused .outbufUndefined) ∧
    (n = 0 → Sys2Proof.Machine.step s = .next { s with hostq := rest, reads := s.reads ++ [.outbuf off []] }) ∧
    (∀ bs, off + n ≤ defined → s.outbuf.readBytes off n = some bs →
      Sys2Proof.Machine.step s = .next { s with hostq := rest, reads := s.reads ++ [.outbuf off bs] })) ∧
  ∀ (i : Instr) (s t : State), exec i s = .next t → t.errf = false →
    i = .build ∨ i = .parse ∨ i = .receive ∨ i = .cryptblock ∨ i = .encrypt ∨ i = .decrypt →
    ∃ bs, t.outbuf.readBytes 0 t.outlen.toNat = some bs

/-- R26: the state after reset. -/
def Obligations.ResetState : Prop :=
  let s := State.reset
  readRegNumber s 0 = 0 ∧ statusByte s = 0x00 ∧ s.err = 0 ∧ s.devstat = 0 ∧ s.ops.inlen = 0 ∧ s.ops.outcap = 0 ∧
    s.outlen = 0 ∧ s.crcout = 0 ∧
    s.ops.pOpcode = 0 ∧ s.ops.pParam1 = 0 ∧ s.ops.pSlot = 0 ∧ s.ops.pKeyidx = 0 ∧ s.ops.pParam2 = 0 ∧
    s.ops.pExplen = 0 ∧ s.ops.pDir = 0 ∧ s.ops.pMode = 0 ∧ s.ops.pPad = 0 ∧ s.ops.pIvpresent = 0 ∧ s.ops.pIv = 0 ∧
    s.ctx.iv = 0 ∧ s.ctx.mode = 0 ∧ s.ctx.pad = 0 ∧ s.ctx.slot = 0 ∧ s.ctx.keyIdx = 0 ∧ s.crcreg = 0 ∧ s.txlen = 0 ∧
    s.rxcnt = 0 ∧ s.attempts = 0 ∧ s.worklen = 0 ∧ s.blk = 0 ∧ s.seq = .sIdle ∧ s.cv = 0 ∧ s.trace = [] ∧
    ∀ a, s.inbuf.read a = none ∧ s.outbuf.read a = none ∧ s.txbuf.read a = none ∧ s.rxbuf.read a = none ∧
      s.work.read a = none

/-- R200: reset abandons a running command: every register takes its reset value, no completion, no bus event, the bytes
of the arrays have no value. -/
def Obligations.ResetAbandonsARunningCommand : Prop :=
  ∀ (s : State) (rest : List HostAction), s.hostq = .rst :: rest →
    ∃ t, Sys2Proof.Machine.step s = .next t ∧ t.busy = false ∧ t.done = false ∧ t.errf = false ∧ t.ctxValid = false ∧
      t.err = 0 ∧ t.devstat = 0 ∧ t.outlen = 0 ∧ t.crcout = 0 ∧ t.ops = OperandRegs.zero ∧ t.ctx = Context.zero ∧
      t.crcreg = 0 ∧ t.txlen = 0 ∧ t.rxcnt = 0 ∧ t.attempts = 0 ∧ t.worklen = 0 ∧ t.blk = 0 ∧ t.seq = .sIdle ∧
      t.cv = 0 ∧ t.trace = s.trace ∧ t.cfg = s.cfg ∧
      ∀ a, t.inbuf.read a = none ∧ t.outbuf.read a = none ∧ t.txbuf.read a = none ∧ t.rxbuf.read a = none ∧
        t.work.read a = none

/-! ## Invariants every step keeps -/

/-- R13, R17, R170: the flags, the error code and the device status agree, after every step from any state in which they
do. -/
def Obligations.StepKeepsFlagsAgreeing : Prop :=
  ∀ s t : State, s.FlagsAgree → Sys2Proof.Machine.step s = .next t → t.FlagsAgree

/-- The flags agree at reset. -/
def Obligations.ResetFlagsAgree : Prop := State.reset.FlagsAgree

/-- Every step keeps the five byte arrays in canonical form. -/
def Obligations.StepKeepsMemoryCanonical : Prop :=
  ∀ s t : State, s.MemoryCanonical → Sys2Proof.Machine.step s = .next t → t.MemoryCanonical

/-- The byte arrays are in canonical form at reset. -/
def Obligations.ResetMemoryCanonical : Prop := State.reset.MemoryCanonical

/-- R112: no frame is ever written without a wake immediately before it, after any step. -/
def Obligations.StepKeepsWakeBeforeEveryWrite : Prop :=
  ∀ s t : State, s.WakesFirst → Sys2Proof.Machine.step s = .next t → t.WakesFirst

/-- R112: the invariant holds at reset. -/
def Obligations.ResetWakesFirst : Prop := State.reset.WakesFirst

/-- R40, R52: no command leaves a byte or a count outside its array. -/
def Obligations.CommandsStayWithinCapacities : Prop :=
  ∀ (i : Instr) (s t : State), s.cfg.Legal → s.WithinCapacities → exec i s = .next t → t.WithinCapacities
end

