-- ==== Sys2Proof/Laws/Bytes.lean ====
section
/-! SUPPORT. Lengths of the byte strings the commands build and take apart, the exclusive or of blocks, and the errors the
parser and a receive can answer. -/

namespace Sys2Proof.Machine

/-! ## Lengths -/

@[simp] theorem bytesOfWord_length (v : Word16) : (bytesOfWord v).length = 2 := rfl

@[simp] theorem crc16_length (data : Bytes) : (crc16 data).length = 2 := rfl

@[simp] theorem rep_length (v : Byte) (n : Nat) : (rep v n).length = n := List.length_replicate

@[simp] theorem bytesOfIv_length (v : Word128) : (bytesOfIv v).length = 16 := by simp [bytesOfIv]

@[simp] theorem xorBytes_length (x y : Bytes) : (xorBytes x y).length = min x.length y.length := by simp [xorBytes]

/-- Exclusive or with a block undoes itself (the step behind R156). -/
theorem xorBytes_cancel {x v : Bytes} (h : x.length = v.length) : xorBytes (xorBytes x v) v = x := by
  induction x generalizing v with
  | nil => cases v <;> simp_all [xorBytes]
  | cons a x ih =>
    cases v with
    | nil => simp at h
    | cons b v =>
      have := ih (v := v) (by simpa using h)
      simp only [xorBytes, List.zipWith_cons_cons, List.cons.injEq] at this ⊢
      exact ⟨by rw [BitVec.xor_assoc, BitVec.xor_self, BitVec.xor_zero], this⟩

@[simp] theorem frameBody_length (cfg : Config) (op p1 : Byte) (p2 : Word16) (payload : Bytes) :
    (frameBody cfg op p1 p2 payload).length = 5 + payload.length := by
  simp [frameBody]; omega

@[simp] theorem commandFrame_length (cfg : Config) (op p1 : Byte) (p2 : Word16) (payload : Bytes) :
    (commandFrame cfg op p1 p2 payload).length = 8 + payload.length := by
  simp [commandFrame]; omega

@[simp] theorem respFrame_length (cfg : Config) (p : Bytes) : (respFrame cfg p).length = p.length + 3 := by
  simp [respFrame]

/-- A parse that succeeds strips the count and the CRC: the payload is 3 bytes shorter (R103, R135). -/
theorem parseResponse_length {cfg : Config} {raw p : Bytes} (h : parseResponse cfg raw = .ok p) :
    p.length + 3 = raw.length := by
  unfold parseResponse at h
  split at h
  · cases h
  · rename_i hc
    split at h
    · cases h
    · have h3 : 3 ≤ raw.length := by
        unfold countOk at hc
        split at hc
        · simp at hc
        · simp at hc; simpa using hc.1
      cases h
      simp; omega

/-- The errors of the parser are the two of R103. -/
theorem parseResponse_error {cfg : Config} {raw : Bytes} {e : Err} (h : parseResponse cfg raw = .error e) :
    e = .countMismatch ∨ e = .crcMismatch := by
  unfold parseResponse at h
  split at h
  · cases h; exact .inl rfl
  · split at h
    · cases h; exact .inr rfl
    · cases h

/-- The errors of a receive are the three of R113. -/
theorem receiveOutcome_error {cfg : Config} {n : Nat} {raw : Bytes} {e : Err}
    (h : receiveOutcome cfg n raw = .error e) : e = .timeout ∨ e = .countMismatch ∨ e = .crcMismatch := by
  unfold receiveOutcome at h
  split at h
  · cases h; exact .inl rfl
  · exact .inr (parseResponse_error h)

end Sys2Proof.Machine
end

