-- ==== Sys2Proof/Laws/Frame.lean ====
section
/-! SUPPORT. What the shared operations keep, as relations between the state before and after: the lemmas about the
operations say which of them holds, once each, and the frames of the commands follow field by field. -/

namespace Sys2Proof.Machine

/-- Everything is as before but what the block loops of ENCRYPT and DECRYPT may write: the bus record, the CRC register,
the transport buffers, the chaining variable, `WORK` and `BLK`. -/
structure KeepsBesideLoop (s t : State) : Prop where
  cfg : t.cfg = s.cfg
  busy : t.busy = s.busy
  done : t.done = s.done
  errf : t.errf = s.errf
  ctxValid : t.ctxValid = s.ctxValid
  err : t.err = s.err
  devstat : t.devstat = s.devstat
  outlen : t.outlen = s.outlen
  crcout : t.crcout = s.crcout
  ops : t.ops = s.ops
  ctx : t.ctx = s.ctx
  inbuf : t.inbuf = s.inbuf
  outbuf : t.outbuf = s.outbuf
  worklen : t.worklen = s.worklen
  seq : t.seq = s.seq
  cur : t.cur = s.cur
  pend : t.pend = s.pend
  plainLen : t.plainLen = s.plainLen
  era : t.era = s.era
  hostq : t.hostq = s.hostq
  reads : t.reads = s.reads

/-- As `KeepsBesideLoop`, and the chaining variable, `WORK` and `BLK` are as before too: what one block may write. -/
structure KeepsBesideLink (s t : State) : Prop extends KeepsBesideLoop s t where
  cv : t.cv = s.cv
  work : t.work = s.work
  blk : t.blk = s.blk

/-- As `KeepsBesideLink`, and the CRC register and the transmit buffer are as before too: what the collecting of a
response may write. -/
structure KeepsBesideRx (s t : State) : Prop extends KeepsBesideLink s t where
  crcreg : t.crcreg = s.crcreg
  txbuf : t.txbuf = s.txbuf
  txlen : t.txlen = s.txlen

theorem KeepsBesideLoop.refl (s : State) : KeepsBesideLoop s s := by constructor <;> rfl

theorem KeepsBesideLoop.trans {s t u : State} (h : KeepsBesideLoop s t) (h' : KeepsBesideLoop t u) : KeepsBesideLoop s u where
  cfg := h'.cfg.trans h.cfg
  busy := h'.busy.trans h.busy
  done := h'.done.trans h.done
  errf := h'.errf.trans h.errf
  ctxValid := h'.ctxValid.trans h.ctxValid
  err := h'.err.trans h.err
  devstat := h'.devstat.trans h.devstat
  outlen := h'.outlen.trans h.outlen
  crcout := h'.crcout.trans h.crcout
  ops := h'.ops.trans h.ops
  ctx := h'.ctx.trans h.ctx
  inbuf := h'.inbuf.trans h.inbuf
  outbuf := h'.outbuf.trans h.outbuf
  worklen := h'.worklen.trans h.worklen
  seq := h'.seq.trans h.seq
  cur := h'.cur.trans h.cur
  pend := h'.pend.trans h.pend
  plainLen := h'.plainLen.trans h.plainLen
  era := h'.era.trans h.era
  hostq := h'.hostq.trans h.hostq
  reads := h'.reads.trans h.reads

theorem KeepsBesideLink.refl (s : State) : KeepsBesideLink s s :=
  ⟨KeepsBesideLoop.refl s, rfl, rfl, rfl⟩

theorem KeepsBesideLink.trans {s t u : State} (h : KeepsBesideLink s t) (h' : KeepsBesideLink t u) : KeepsBesideLink s u where
  toKeepsBesideLoop := h.toKeepsBesideLoop.trans h'.toKeepsBesideLoop
  cv := h'.cv.trans h.cv
  work := h'.work.trans h.work
  blk := h'.blk.trans h.blk

theorem KeepsBesideRx.refl (s : State) : KeepsBesideRx s s :=
  ⟨KeepsBesideLink.refl s, rfl, rfl, rfl⟩

theorem KeepsBesideRx.trans {s t u : State} (h : KeepsBesideRx s t) (h' : KeepsBesideRx t u) : KeepsBesideRx s u where
  toKeepsBesideLink := h.toKeepsBesideLink.trans h'.toKeepsBesideLink
  crcreg := h'.crcreg.trans h.crcreg
  txbuf := h'.txbuf.trans h.txbuf
  txlen := h'.txlen.trans h.txlen

end Sys2Proof.Machine
end

