-- ==== Sys2Proof/Laws/State.lean ====
section
/-! SUPPORT. One lemma per field per update of State: what each named operation of the model leaves in each field. All are
true by rfl (those of `finishCommand`, which clears WORK or not, by its two cases) and tagged simp, so that no proof
unfolds a record update. -/

namespace Sys2Proof.Machine
section
variable (s : State)
@[simp] theorem busWake_cfg : (busWake s).cfg = s.cfg := rfl
@[simp] theorem busWake_busy : (busWake s).busy = s.busy := rfl
@[simp] theorem busWake_done : (busWake s).done = s.done := rfl
@[simp] theorem busWake_errf : (busWake s).errf = s.errf := rfl
@[simp] theorem busWake_ctxValid : (busWake s).ctxValid = s.ctxValid := rfl
@[simp] theorem busWake_err : (busWake s).err = s.err := rfl
@[simp] theorem busWake_devstat : (busWake s).devstat = s.devstat := rfl
@[simp] theorem busWake_outlen : (busWake s).outlen = s.outlen := rfl
@[simp] theorem busWake_crcout : (busWake s).crcout = s.crcout := rfl
@[simp] theorem busWake_ops : (busWake s).ops = s.ops := rfl
@[simp] theorem busWake_ctx : (busWake s).ctx = s.ctx := rfl
@[simp] theorem busWake_inbuf : (busWake s).inbuf = s.inbuf := rfl
@[simp] theorem busWake_outbuf : (busWake s).outbuf = s.outbuf := rfl
@[simp] theorem busWake_crcreg : (busWake s).crcreg = s.crcreg := rfl
@[simp] theorem busWake_txbuf : (busWake s).txbuf = s.txbuf := rfl
@[simp] theorem busWake_txlen : (busWake s).txlen = s.txlen := rfl
@[simp] theorem busWake_rxbuf : (busWake s).rxbuf = s.rxbuf := rfl
@[simp] theorem busWake_rxcnt : (busWake s).rxcnt = s.rxcnt := rfl
@[simp] theorem busWake_attempts : (busWake s).attempts = s.attempts := rfl
@[simp] theorem busWake_cv : (busWake s).cv = s.cv := rfl
@[simp] theorem busWake_work : (busWake s).work = s.work := rfl
@[simp] theorem busWake_worklen : (busWake s).worklen = s.worklen := rfl
@[simp] theorem busWake_blk : (busWake s).blk = s.blk := rfl
@[simp] theorem busWake_seq : (busWake s).seq = s.seq := rfl
@[simp] theorem busWake_cur : (busWake s).cur = s.cur := rfl
@[simp] theorem busWake_pend : (busWake s).pend = s.pend := rfl
@[simp] theorem busWake_plainLen : (busWake s).plainLen = s.plainLen := rfl
@[simp] theorem busWake_trace : (busWake s).trace = s.trace ++ [.wake] := rfl
@[simp] theorem busWake_answers : (busWake s).answers = s.answers := rfl
@[simp] theorem busWake_era : (busWake s).era = s.era := rfl
@[simp] theorem busWake_hostq : (busWake s).hostq = s.hostq := rfl
@[simp] theorem busWake_reads : (busWake s).reads = s.reads := rfl
end

section
variable (f : Bytes) (s : State)
@[simp] theorem busWrite_cfg : (busWrite f s).cfg = s.cfg := rfl
@[simp] theorem busWrite_busy : (busWrite f s).busy = s.busy := rfl
@[simp] theorem busWrite_done : (busWrite f s).done = s.done := rfl
@[simp] theorem busWrite_errf : (busWrite f s).errf = s.errf := rfl
@[simp] theorem busWrite_ctxValid : (busWrite f s).ctxValid = s.ctxValid := rfl
@[simp] theorem busWrite_err : (busWrite f s).err = s.err := rfl
@[simp] theorem busWrite_devstat : (busWrite f s).devstat = s.devstat := rfl
@[simp] theorem busWrite_outlen : (busWrite f s).outlen = s.outlen := rfl
@[simp] theorem busWrite_crcout : (busWrite f s).crcout = s.crcout := rfl
@[simp] theorem busWrite_ops : (busWrite f s).ops = s.ops := rfl
@[simp] theorem busWrite_ctx : (busWrite f s).ctx = s.ctx := rfl
@[simp] theorem busWrite_inbuf : (busWrite f s).inbuf = s.inbuf := rfl
@[simp] theorem busWrite_outbuf : (busWrite f s).outbuf = s.outbuf := rfl
@[simp] theorem busWrite_crcreg : (busWrite f s).crcreg = s.crcreg := rfl
@[simp] theorem busWrite_txbuf : (busWrite f s).txbuf = s.txbuf := rfl
@[simp] theorem busWrite_txlen : (busWrite f s).txlen = s.txlen := rfl
@[simp] theorem busWrite_rxbuf : (busWrite f s).rxbuf = s.rxbuf := rfl
@[simp] theorem busWrite_rxcnt : (busWrite f s).rxcnt = s.rxcnt := rfl
@[simp] theorem busWrite_attempts : (busWrite f s).attempts = s.attempts := rfl
@[simp] theorem busWrite_cv : (busWrite f s).cv = s.cv := rfl
@[simp] theorem busWrite_work : (busWrite f s).work = s.work := rfl
@[simp] theorem busWrite_worklen : (busWrite f s).worklen = s.worklen := rfl
@[simp] theorem busWrite_blk : (busWrite f s).blk = s.blk := rfl
@[simp] theorem busWrite_seq : (busWrite f s).seq = s.seq := rfl
@[simp] theorem busWrite_cur : (busWrite f s).cur = s.cur := rfl
@[simp] theorem busWrite_pend : (busWrite f s).pend = s.pend := rfl
@[simp] theorem busWrite_plainLen : (busWrite f s).plainLen = s.plainLen := rfl
@[simp] theorem busWrite_trace : (busWrite f s).trace = s.trace ++ [.write f] := rfl
@[simp] theorem busWrite_answers : (busWrite f s).answers = s.answers := rfl
@[simp] theorem busWrite_era : (busWrite f s).era = s.era := rfl
@[simp] theorem busWrite_hostq : (busWrite f s).hostq = s.hostq := rfl
@[simp] theorem busWrite_reads : (busWrite f s).reads = s.reads := rfl
end

section
variable (s : State)
@[simp] theorem busExecWait_cfg : (busExecWait s).cfg = s.cfg := rfl
@[simp] theorem busExecWait_busy : (busExecWait s).busy = s.busy := rfl
@[simp] theorem busExecWait_done : (busExecWait s).done = s.done := rfl
@[simp] theorem busExecWait_errf : (busExecWait s).errf = s.errf := rfl
@[simp] theorem busExecWait_ctxValid : (busExecWait s).ctxValid = s.ctxValid := rfl
@[simp] theorem busExecWait_err : (busExecWait s).err = s.err := rfl
@[simp] theorem busExecWait_devstat : (busExecWait s).devstat = s.devstat := rfl
@[simp] theorem busExecWait_outlen : (busExecWait s).outlen = s.outlen := rfl
@[simp] theorem busExecWait_crcout : (busExecWait s).crcout = s.crcout := rfl
@[simp] theorem busExecWait_ops : (busExecWait s).ops = s.ops := rfl
@[simp] theorem busExecWait_ctx : (busExecWait s).ctx = s.ctx := rfl
@[simp] theorem busExecWait_inbuf : (busExecWait s).inbuf = s.inbuf := rfl
@[simp] theorem busExecWait_outbuf : (busExecWait s).outbuf = s.outbuf := rfl
@[simp] theorem busExecWait_crcreg : (busExecWait s).crcreg = s.crcreg := rfl
@[simp] theorem busExecWait_txbuf : (busExecWait s).txbuf = s.txbuf := rfl
@[simp] theorem busExecWait_txlen : (busExecWait s).txlen = s.txlen := rfl
@[simp] theorem busExecWait_rxbuf : (busExecWait s).rxbuf = s.rxbuf := rfl
@[simp] theorem busExecWait_rxcnt : (busExecWait s).rxcnt = s.rxcnt := rfl
@[simp] theorem busExecWait_attempts : (busExecWait s).attempts = s.attempts := rfl
@[simp] theorem busExecWait_cv : (busExecWait s).cv = s.cv := rfl
@[simp] theorem busExecWait_work : (busExecWait s).work = s.work := rfl
@[simp] theorem busExecWait_worklen : (busExecWait s).worklen = s.worklen := rfl
@[simp] theorem busExecWait_blk : (busExecWait s).blk = s.blk := rfl
@[simp] theorem busExecWait_seq : (busExecWait s).seq = s.seq := rfl
@[simp] theorem busExecWait_cur : (busExecWait s).cur = s.cur := rfl
@[simp] theorem busExecWait_pend : (busExecWait s).pend = s.pend := rfl
@[simp] theorem busExecWait_plainLen : (busExecWait s).plainLen = s.plainLen := rfl
@[simp] theorem busExecWait_trace : (busExecWait s).trace = s.trace ++ [.execWait] := rfl
@[simp] theorem busExecWait_answers : (busExecWait s).answers = s.answers := rfl
@[simp] theorem busExecWait_era : (busExecWait s).era = s.era := rfl
@[simp] theorem busExecWait_hostq : (busExecWait s).hostq = s.hostq := rfl
@[simp] theorem busExecWait_reads : (busExecWait s).reads = s.reads := rfl
end

section
variable (s : State)
@[simp] theorem busIdle_cfg : (busIdle s).cfg = s.cfg := rfl
@[simp] theorem busIdle_busy : (busIdle s).busy = s.busy := rfl
@[simp] theorem busIdle_done : (busIdle s).done = s.done := rfl
@[simp] theorem busIdle_errf : (busIdle s).errf = s.errf := rfl
@[simp] theorem busIdle_ctxValid : (busIdle s).ctxValid = s.ctxValid := rfl
@[simp] theorem busIdle_err : (busIdle s).err = s.err := rfl
@[simp] theorem busIdle_devstat : (busIdle s).devstat = s.devstat := rfl
@[simp] theorem busIdle_outlen : (busIdle s).outlen = s.outlen := rfl
@[simp] theorem busIdle_crcout : (busIdle s).crcout = s.crcout := rfl
@[simp] theorem busIdle_ops : (busIdle s).ops = s.ops := rfl
@[simp] theorem busIdle_ctx : (busIdle s).ctx = s.ctx := rfl
@[simp] theorem busIdle_inbuf : (busIdle s).inbuf = s.inbuf := rfl
@[simp] theorem busIdle_outbuf : (busIdle s).outbuf = s.outbuf := rfl
@[simp] theorem busIdle_crcreg : (busIdle s).crcreg = s.crcreg := rfl
@[simp] theorem busIdle_txbuf : (busIdle s).txbuf = s.txbuf := rfl
@[simp] theorem busIdle_txlen : (busIdle s).txlen = s.txlen := rfl
@[simp] theorem busIdle_rxbuf : (busIdle s).rxbuf = s.rxbuf := rfl
@[simp] theorem busIdle_rxcnt : (busIdle s).rxcnt = s.rxcnt := rfl
@[simp] theorem busIdle_attempts : (busIdle s).attempts = s.attempts := rfl
@[simp] theorem busIdle_cv : (busIdle s).cv = s.cv := rfl
@[simp] theorem busIdle_work : (busIdle s).work = s.work := rfl
@[simp] theorem busIdle_worklen : (busIdle s).worklen = s.worklen := rfl
@[simp] theorem busIdle_blk : (busIdle s).blk = s.blk := rfl
@[simp] theorem busIdle_seq : (busIdle s).seq = s.seq := rfl
@[simp] theorem busIdle_cur : (busIdle s).cur = s.cur := rfl
@[simp] theorem busIdle_pend : (busIdle s).pend = s.pend := rfl
@[simp] theorem busIdle_plainLen : (busIdle s).plainLen = s.plainLen := rfl
@[simp] theorem busIdle_trace : (busIdle s).trace = s.trace ++ [.idle] := rfl
@[simp] theorem busIdle_answers : (busIdle s).answers = s.answers := rfl
@[simp] theorem busIdle_era : (busIdle s).era = s.era := rfl
@[simp] theorem busIdle_hostq : (busIdle s).hostq = s.hostq := rfl
@[simp] theorem busIdle_reads : (busIdle s).reads = s.reads := rfl
end

section
variable (n : Nat) (s : State)
@[simp] theorem busReadEffect_cfg : (busReadEffect n s).cfg = s.cfg := rfl
@[simp] theorem busReadEffect_busy : (busReadEffect n s).busy = s.busy := rfl
@[simp] theorem busReadEffect_done : (busReadEffect n s).done = s.done := rfl
@[simp] theorem busReadEffect_errf : (busReadEffect n s).errf = s.errf := rfl
@[simp] theorem busReadEffect_ctxValid : (busReadEffect n s).ctxValid = s.ctxValid := rfl
@[simp] theorem busReadEffect_err : (busReadEffect n s).err = s.err := rfl
@[simp] theorem busReadEffect_devstat : (busReadEffect n s).devstat = s.devstat := rfl
@[simp] theorem busReadEffect_outlen : (busReadEffect n s).outlen = s.outlen := rfl
@[simp] theorem busReadEffect_crcout : (busReadEffect n s).crcout = s.crcout := rfl
@[simp] theorem busReadEffect_ops : (busReadEffect n s).ops = s.ops := rfl
@[simp] theorem busReadEffect_ctx : (busReadEffect n s).ctx = s.ctx := rfl
@[simp] theorem busReadEffect_inbuf : (busReadEffect n s).inbuf = s.inbuf := rfl
@[simp] theorem busReadEffect_outbuf : (busReadEffect n s).outbuf = s.outbuf := rfl
@[simp] theorem busReadEffect_crcreg : (busReadEffect n s).crcreg = s.crcreg := rfl
@[simp] theorem busReadEffect_txbuf : (busReadEffect n s).txbuf = s.txbuf := rfl
@[simp] theorem busReadEffect_txlen : (busReadEffect n s).txlen = s.txlen := rfl
@[simp] theorem busReadEffect_rxbuf : (busReadEffect n s).rxbuf = s.rxbuf := rfl
@[simp] theorem busReadEffect_rxcnt : (busReadEffect n s).rxcnt = s.rxcnt := rfl
@[simp] theorem busReadEffect_attempts : (busReadEffect n s).attempts = s.attempts := rfl
@[simp] theorem busReadEffect_cv : (busReadEffect n s).cv = s.cv := rfl
@[simp] theorem busReadEffect_work : (busReadEffect n s).work = s.work := rfl
@[simp] theorem busReadEffect_worklen : (busReadEffect n s).worklen = s.worklen := rfl
@[simp] theorem busReadEffect_blk : (busReadEffect n s).blk = s.blk := rfl
@[simp] theorem busReadEffect_seq : (busReadEffect n s).seq = s.seq := rfl
@[simp] theorem busReadEffect_cur : (busReadEffect n s).cur = s.cur := rfl
@[simp] theorem busReadEffect_pend : (busReadEffect n s).pend = s.pend := rfl
@[simp] theorem busReadEffect_plainLen : (busReadEffect n s).plainLen = s.plainLen := rfl
@[simp] theorem busReadEffect_trace : (busReadEffect n s).trace = s.trace ++ [.read n (busAnswer n s)] := rfl
@[simp] theorem busReadEffect_answers : (busReadEffect n s).answers = s.answers.drop 1 := rfl
@[simp] theorem busReadEffect_era : (busReadEffect n s).era = s.era := rfl
@[simp] theorem busReadEffect_hostq : (busReadEffect n s).hostq = s.hostq := rfl
@[simp] theorem busReadEffect_reads : (busReadEffect n s).reads = s.reads := rfl
end

section
variable (r : Word16) (s : State)
@[simp] theorem setCrcreg_cfg : (setCrcreg r s).cfg = s.cfg := rfl
@[simp] theorem setCrcreg_busy : (setCrcreg r s).busy = s.busy := rfl
@[simp] theorem setCrcreg_done : (setCrcreg r s).done = s.done := rfl
@[simp] theorem setCrcreg_errf : (setCrcreg r s).errf = s.errf := rfl
@[simp] theorem setCrcreg_ctxValid : (setCrcreg r s).ctxValid = s.ctxValid := rfl
@[simp] theorem setCrcreg_err : (setCrcreg r s).err = s.err := rfl
@[simp] theorem setCrcreg_devstat : (setCrcreg r s).devstat = s.devstat := rfl
@[simp] theorem setCrcreg_outlen : (setCrcreg r s).outlen = s.outlen := rfl
@[simp] theorem setCrcreg_crcout : (setCrcreg r s).crcout = s.crcout := rfl
@[simp] theorem setCrcreg_ops : (setCrcreg r s).ops = s.ops := rfl
@[simp] theorem setCrcreg_ctx : (setCrcreg r s).ctx = s.ctx := rfl
@[simp] theorem setCrcreg_inbuf : (setCrcreg r s).inbuf = s.inbuf := rfl
@[simp] theorem setCrcreg_outbuf : (setCrcreg r s).outbuf = s.outbuf := rfl
@[simp] theorem setCrcreg_crcreg : (setCrcreg r s).crcreg = r := rfl
@[simp] theorem setCrcreg_txbuf : (setCrcreg r s).txbuf = s.txbuf := rfl
@[simp] theorem setCrcreg_txlen : (setCrcreg r s).txlen = s.txlen := rfl
@[simp] theorem setCrcreg_rxbuf : (setCrcreg r s).rxbuf = s.rxbuf := rfl
@[simp] theorem setCrcreg_rxcnt : (setCrcreg r s).rxcnt = s.rxcnt := rfl
@[simp] theorem setCrcreg_attempts : (setCrcreg r s).attempts = s.attempts := rfl
@[simp] theorem setCrcreg_cv : (setCrcreg r s).cv = s.cv := rfl
@[simp] theorem setCrcreg_work : (setCrcreg r s).work = s.work := rfl
@[simp] theorem setCrcreg_worklen : (setCrcreg r s).worklen = s.worklen := rfl
@[simp] theorem setCrcreg_blk : (setCrcreg r s).blk = s.blk := rfl
@[simp] theorem setCrcreg_seq : (setCrcreg r s).seq = s.seq := rfl
@[simp] theorem setCrcreg_cur : (setCrcreg r s).cur = s.cur := rfl
@[simp] theorem setCrcreg_pend : (setCrcreg r s).pend = s.pend := rfl
@[simp] theorem setCrcreg_plainLen : (setCrcreg r s).plainLen = s.plainLen := rfl
@[simp] theorem setCrcreg_trace : (setCrcreg r s).trace = s.trace := rfl
@[simp] theorem setCrcreg_answers : (setCrcreg r s).answers = s.answers := rfl
@[simp] theorem setCrcreg_era : (setCrcreg r s).era = s.era := rfl
@[simp] theorem setCrcreg_hostq : (setCrcreg r s).hostq = s.hostq := rfl
@[simp] theorem setCrcreg_reads : (setCrcreg r s).reads = s.reads := rfl
end

section
variable (f : Bytes) (s : State)
@[simp] theorem setTx_cfg : (setTx f s).cfg = s.cfg := rfl
@[simp] theorem setTx_busy : (setTx f s).busy = s.busy := rfl
@[simp] theorem setTx_done : (setTx f s).done = s.done := rfl
@[simp] theorem setTx_errf : (setTx f s).errf = s.errf := rfl
@[simp] theorem setTx_ctxValid : (setTx f s).ctxValid = s.ctxValid := rfl
@[simp] theorem setTx_err : (setTx f s).err = s.err := rfl
@[simp] theorem setTx_devstat : (setTx f s).devstat = s.devstat := rfl
@[simp] theorem setTx_outlen : (setTx f s).outlen = s.outlen := rfl
@[simp] theorem setTx_crcout : (setTx f s).crcout = s.crcout := rfl
@[simp] theorem setTx_ops : (setTx f s).ops = s.ops := rfl
@[simp] theorem setTx_ctx : (setTx f s).ctx = s.ctx := rfl
@[simp] theorem setTx_inbuf : (setTx f s).inbuf = s.inbuf := rfl
@[simp] theorem setTx_outbuf : (setTx f s).outbuf = s.outbuf := rfl
@[simp] theorem setTx_crcreg : (setTx f s).crcreg = s.crcreg := rfl
@[simp] theorem setTx_txbuf : (setTx f s).txbuf = s.txbuf.writeBytes 0 f := rfl
@[simp] theorem setTx_txlen : (setTx f s).txlen = f.length := rfl
@[simp] theorem setTx_rxbuf : (setTx f s).rxbuf = s.rxbuf := rfl
@[simp] theorem setTx_rxcnt : (setTx f s).rxcnt = s.rxcnt := rfl
@[simp] theorem setTx_attempts : (setTx f s).attempts = s.attempts := rfl
@[simp] theorem setTx_cv : (setTx f s).cv = s.cv := rfl
@[simp] theorem setTx_work : (setTx f s).work = s.work := rfl
@[simp] theorem setTx_worklen : (setTx f s).worklen = s.worklen := rfl
@[simp] theorem setTx_blk : (setTx f s).blk = s.blk := rfl
@[simp] theorem setTx_seq : (setTx f s).seq = s.seq := rfl
@[simp] theorem setTx_cur : (setTx f s).cur = s.cur := rfl
@[simp] theorem setTx_pend : (setTx f s).pend = s.pend := rfl
@[simp] theorem setTx_plainLen : (setTx f s).plainLen = s.plainLen := rfl
@[simp] theorem setTx_trace : (setTx f s).trace = s.trace := rfl
@[simp] theorem setTx_answers : (setTx f s).answers = s.answers := rfl
@[simp] theorem setTx_era : (setTx f s).era = s.era := rfl
@[simp] theorem setTx_hostq : (setTx f s).hostq = s.hostq := rfl
@[simp] theorem setTx_reads : (setTx f s).reads = s.reads := rfl
end

section
variable (s : State)
@[simp] theorem rxStart_cfg : (rxStart s).cfg = s.cfg := rfl
@[simp] theorem rxStart_busy : (rxStart s).busy = s.busy := rfl
@[simp] theorem rxStart_done : (rxStart s).done = s.done := rfl
@[simp] theorem rxStart_errf : (rxStart s).errf = s.errf := rfl
@[simp] theorem rxStart_ctxValid : (rxStart s).ctxValid = s.ctxValid := rfl
@[simp] theorem rxStart_err : (rxStart s).err = s.err := rfl
@[simp] theorem rxStart_devstat : (rxStart s).devstat = s.devstat := rfl
@[simp] theorem rxStart_outlen : (rxStart s).outlen = s.outlen := rfl
@[simp] theorem rxStart_crcout : (rxStart s).crcout = s.crcout := rfl
@[simp] theorem rxStart_ops : (rxStart s).ops = s.ops := rfl
@[simp] theorem rxStart_ctx : (rxStart s).ctx = s.ctx := rfl
@[simp] theorem rxStart_inbuf : (rxStart s).inbuf = s.inbuf := rfl
@[simp] theorem rxStart_outbuf : (rxStart s).outbuf = s.outbuf := rfl
@[simp] theorem rxStart_crcreg : (rxStart s).crcreg = s.crcreg := rfl
@[simp] theorem rxStart_txbuf : (rxStart s).txbuf = s.txbuf := rfl
@[simp] theorem rxStart_txlen : (rxStart s).txlen = s.txlen := rfl
@[simp] theorem rxStart_rxbuf : (rxStart s).rxbuf = s.rxbuf := rfl
@[simp] theorem rxStart_rxcnt : (rxStart s).rxcnt = 0 := rfl
@[simp] theorem rxStart_attempts : (rxStart s).attempts = 0 := rfl
@[simp] theorem rxStart_cv : (rxStart s).cv = s.cv := rfl
@[simp] theorem rxStart_work : (rxStart s).work = s.work := rfl
@[simp] theorem rxStart_worklen : (rxStart s).worklen = s.worklen := rfl
@[simp] theorem rxStart_blk : (rxStart s).blk = s.blk := rfl
@[simp] theorem rxStart_seq : (rxStart s).seq = s.seq := rfl
@[simp] theorem rxStart_cur : (rxStart s).cur = s.cur := rfl
@[simp] theorem rxStart_pend : (rxStart s).pend = s.pend := rfl
@[simp] theorem rxStart_plainLen : (rxStart s).plainLen = s.plainLen := rfl
@[simp] theorem rxStart_trace : (rxStart s).trace = s.trace := rfl
@[simp] theorem rxStart_answers : (rxStart s).answers = s.answers := rfl
@[simp] theorem rxStart_era : (rxStart s).era = s.era := rfl
@[simp] theorem rxStart_hostq : (rxStart s).hostq = s.hostq := rfl
@[simp] theorem rxStart_reads : (rxStart s).reads = s.reads := rfl
end

section
variable (c : Bytes) (s : State)
@[simp] theorem rxStore_cfg : (rxStore c s).cfg = s.cfg := rfl
@[simp] theorem rxStore_busy : (rxStore c s).busy = s.busy := rfl
@[simp] theorem rxStore_done : (rxStore c s).done = s.done := rfl
@[simp] theorem rxStore_errf : (rxStore c s).errf = s.errf := rfl
@[simp] theorem rxStore_ctxValid : (rxStore c s).ctxValid = s.ctxValid := rfl
@[simp] theorem rxStore_err : (rxStore c s).err = s.err := rfl
@[simp] theorem rxStore_devstat : (rxStore c s).devstat = s.devstat := rfl
@[simp] theorem rxStore_outlen : (rxStore c s).outlen = s.outlen := rfl
@[simp] theorem rxStore_crcout : (rxStore c s).crcout = s.crcout := rfl
@[simp] theorem rxStore_ops : (rxStore c s).ops = s.ops := rfl
@[simp] theorem rxStore_ctx : (rxStore c s).ctx = s.ctx := rfl
@[simp] theorem rxStore_inbuf : (rxStore c s).inbuf = s.inbuf := rfl
@[simp] theorem rxStore_outbuf : (rxStore c s).outbuf = s.outbuf := rfl
@[simp] theorem rxStore_crcreg : (rxStore c s).crcreg = s.crcreg := rfl
@[simp] theorem rxStore_txbuf : (rxStore c s).txbuf = s.txbuf := rfl
@[simp] theorem rxStore_txlen : (rxStore c s).txlen = s.txlen := rfl
@[simp] theorem rxStore_rxbuf : (rxStore c s).rxbuf = s.rxbuf.writeBytes s.rxcnt c := rfl
@[simp] theorem rxStore_rxcnt : (rxStore c s).rxcnt = s.rxcnt + c.length := rfl
@[simp] theorem rxStore_attempts : (rxStore c s).attempts = s.attempts + 1 := rfl
@[simp] theorem rxStore_cv : (rxStore c s).cv = s.cv := rfl
@[simp] theorem rxStore_work : (rxStore c s).work = s.work := rfl
@[simp] theorem rxStore_worklen : (rxStore c s).worklen = s.worklen := rfl
@[simp] theorem rxStore_blk : (rxStore c s).blk = s.blk := rfl
@[simp] theorem rxStore_seq : (rxStore c s).seq = s.seq := rfl
@[simp] theorem rxStore_cur : (rxStore c s).cur = s.cur := rfl
@[simp] theorem rxStore_pend : (rxStore c s).pend = s.pend := rfl
@[simp] theorem rxStore_plainLen : (rxStore c s).plainLen = s.plainLen := rfl
@[simp] theorem rxStore_trace : (rxStore c s).trace = s.trace := rfl
@[simp] theorem rxStore_answers : (rxStore c s).answers = s.answers := rfl
@[simp] theorem rxStore_era : (rxStore c s).era = s.era := rfl
@[simp] theorem rxStore_hostq : (rxStore c s).hostq = s.hostq := rfl
@[simp] theorem rxStore_reads : (rxStore c s).reads = s.reads := rfl
end

section
variable (raw : Bytes) (s : State)
@[simp] theorem rxLoad_cfg : (rxLoad raw s).cfg = s.cfg := rfl
@[simp] theorem rxLoad_busy : (rxLoad raw s).busy = s.busy := rfl
@[simp] theorem rxLoad_done : (rxLoad raw s).done = s.done := rfl
@[simp] theorem rxLoad_errf : (rxLoad raw s).errf = s.errf := rfl
@[simp] theorem rxLoad_ctxValid : (rxLoad raw s).ctxValid = s.ctxValid := rfl
@[simp] theorem rxLoad_err : (rxLoad raw s).err = s.err := rfl
@[simp] theorem rxLoad_devstat : (rxLoad raw s).devstat = s.devstat := rfl
@[simp] theorem rxLoad_outlen : (rxLoad raw s).outlen = s.outlen := rfl
@[simp] theorem rxLoad_crcout : (rxLoad raw s).crcout = s.crcout := rfl
@[simp] theorem rxLoad_ops : (rxLoad raw s).ops = s.ops := rfl
@[simp] theorem rxLoad_ctx : (rxLoad raw s).ctx = s.ctx := rfl
@[simp] theorem rxLoad_inbuf : (rxLoad raw s).inbuf = s.inbuf := rfl
@[simp] theorem rxLoad_outbuf : (rxLoad raw s).outbuf = s.outbuf := rfl
@[simp] theorem rxLoad_crcreg : (rxLoad raw s).crcreg = s.crcreg := rfl
@[simp] theorem rxLoad_txbuf : (rxLoad raw s).txbuf = s.txbuf := rfl
@[simp] theorem rxLoad_txlen : (rxLoad raw s).txlen = s.txlen := rfl
@[simp] theorem rxLoad_rxbuf : (rxLoad raw s).rxbuf = s.rxbuf.writeBytes 0 raw := rfl
@[simp] theorem rxLoad_rxcnt : (rxLoad raw s).rxcnt = raw.length := rfl
@[simp] theorem rxLoad_attempts : (rxLoad raw s).attempts = s.attempts := rfl
@[simp] theorem rxLoad_cv : (rxLoad raw s).cv = s.cv := rfl
@[simp] theorem rxLoad_work : (rxLoad raw s).work = s.work := rfl
@[simp] theorem rxLoad_worklen : (rxLoad raw s).worklen = s.worklen := rfl
@[simp] theorem rxLoad_blk : (rxLoad raw s).blk = s.blk := rfl
@[simp] theorem rxLoad_seq : (rxLoad raw s).seq = s.seq := rfl
@[simp] theorem rxLoad_cur : (rxLoad raw s).cur = s.cur := rfl
@[simp] theorem rxLoad_pend : (rxLoad raw s).pend = s.pend := rfl
@[simp] theorem rxLoad_plainLen : (rxLoad raw s).plainLen = s.plainLen := rfl
@[simp] theorem rxLoad_trace : (rxLoad raw s).trace = s.trace := rfl
@[simp] theorem rxLoad_answers : (rxLoad raw s).answers = s.answers := rfl
@[simp] theorem rxLoad_era : (rxLoad raw s).era = s.era := rfl
@[simp] theorem rxLoad_hostq : (rxLoad raw s).hostq = s.hostq := rfl
@[simp] theorem rxLoad_reads : (rxLoad raw s).reads = s.reads := rfl
end

section
variable (v : Byte) (s : State)
@[simp] theorem startCommand_cfg : (startCommand v s).cfg = s.cfg := rfl
@[simp] theorem startCommand_busy : (startCommand v s).busy = true := rfl
@[simp] theorem startCommand_done : (startCommand v s).done = false := rfl
@[simp] theorem startCommand_errf : (startCommand v s).errf = false := rfl
@[simp] theorem startCommand_ctxValid : (startCommand v s).ctxValid = s.ctxValid := rfl
@[simp] theorem startCommand_err : (startCommand v s).err = 0 := rfl
@[simp] theorem startCommand_devstat : (startCommand v s).devstat = 0 := rfl
@[simp] theorem startCommand_outlen : (startCommand v s).outlen = 0 := rfl
@[simp] theorem startCommand_crcout : (startCommand v s).crcout = 0 := rfl
@[simp] theorem startCommand_ops : (startCommand v s).ops = s.ops := rfl
@[simp] theorem startCommand_ctx : (startCommand v s).ctx = s.ctx := rfl
@[simp] theorem startCommand_inbuf : (startCommand v s).inbuf = s.inbuf := rfl
@[simp] theorem startCommand_outbuf : (startCommand v s).outbuf = s.outbuf := rfl
@[simp] theorem startCommand_crcreg : (startCommand v s).crcreg = s.crcreg := rfl
@[simp] theorem startCommand_txbuf : (startCommand v s).txbuf = s.txbuf := rfl
@[simp] theorem startCommand_txlen : (startCommand v s).txlen = s.txlen := rfl
@[simp] theorem startCommand_rxbuf : (startCommand v s).rxbuf = s.rxbuf := rfl
@[simp] theorem startCommand_rxcnt : (startCommand v s).rxcnt = s.rxcnt := rfl
@[simp] theorem startCommand_attempts : (startCommand v s).attempts = s.attempts := rfl
@[simp] theorem startCommand_cv : (startCommand v s).cv = s.cv := rfl
@[simp] theorem startCommand_work : (startCommand v s).work = s.work := rfl
@[simp] theorem startCommand_worklen : (startCommand v s).worklen = s.worklen := rfl
@[simp] theorem startCommand_blk : (startCommand v s).blk = 0 := rfl
@[simp] theorem startCommand_seq : (startCommand v s).seq = .sValidate := rfl
@[simp] theorem startCommand_cur : (startCommand v s).cur = v := rfl
@[simp] theorem startCommand_pend : (startCommand v s).pend = none := rfl
@[simp] theorem startCommand_plainLen : (startCommand v s).plainLen = 0 := rfl
@[simp] theorem startCommand_trace : (startCommand v s).trace = s.trace := rfl
@[simp] theorem startCommand_answers : (startCommand v s).answers = s.answers := rfl
@[simp] theorem startCommand_era : (startCommand v s).era = s.era := rfl
@[simp] theorem startCommand_hostq : (startCommand v s).hostq = s.hostq := rfl
@[simp] theorem startCommand_reads : (startCommand v s).reads = s.reads := rfl
end

section
variable (s : State)
@[simp] theorem clearWork_cfg : (clearWork s).cfg = s.cfg := rfl
@[simp] theorem clearWork_busy : (clearWork s).busy = s.busy := rfl
@[simp] theorem clearWork_done : (clearWork s).done = s.done := rfl
@[simp] theorem clearWork_errf : (clearWork s).errf = s.errf := rfl
@[simp] theorem clearWork_ctxValid : (clearWork s).ctxValid = s.ctxValid := rfl
@[simp] theorem clearWork_err : (clearWork s).err = s.err := rfl
@[simp] theorem clearWork_devstat : (clearWork s).devstat = s.devstat := rfl
@[simp] theorem clearWork_outlen : (clearWork s).outlen = s.outlen := rfl
@[simp] theorem clearWork_crcout : (clearWork s).crcout = s.crcout := rfl
@[simp] theorem clearWork_ops : (clearWork s).ops = s.ops := rfl
@[simp] theorem clearWork_ctx : (clearWork s).ctx = s.ctx := rfl
@[simp] theorem clearWork_inbuf : (clearWork s).inbuf = s.inbuf := rfl
@[simp] theorem clearWork_outbuf : (clearWork s).outbuf = s.outbuf := rfl
@[simp] theorem clearWork_crcreg : (clearWork s).crcreg = s.crcreg := rfl
@[simp] theorem clearWork_txbuf : (clearWork s).txbuf = s.txbuf := rfl
@[simp] theorem clearWork_txlen : (clearWork s).txlen = s.txlen := rfl
@[simp] theorem clearWork_rxbuf : (clearWork s).rxbuf = s.rxbuf := rfl
@[simp] theorem clearWork_rxcnt : (clearWork s).rxcnt = s.rxcnt := rfl
@[simp] theorem clearWork_attempts : (clearWork s).attempts = s.attempts := rfl
@[simp] theorem clearWork_cv : (clearWork s).cv = 0 := rfl
@[simp] theorem clearWork_work : (clearWork s).work = s.work.writeBytes 0 (rep 0 (s.cfg.bufCap + 16)) := rfl
@[simp] theorem clearWork_worklen : (clearWork s).worklen = 0 := rfl
@[simp] theorem clearWork_blk : (clearWork s).blk = s.blk := rfl
@[simp] theorem clearWork_seq : (clearWork s).seq = s.seq := rfl
@[simp] theorem clearWork_cur : (clearWork s).cur = s.cur := rfl
@[simp] theorem clearWork_pend : (clearWork s).pend = s.pend := rfl
@[simp] theorem clearWork_plainLen : (clearWork s).plainLen = s.plainLen := rfl
@[simp] theorem clearWork_trace : (clearWork s).trace = s.trace := rfl
@[simp] theorem clearWork_answers : (clearWork s).answers = s.answers := rfl
@[simp] theorem clearWork_era : (clearWork s).era = s.era := rfl
@[simp] theorem clearWork_hostq : (clearWork s).hostq = s.hostq := rfl
@[simp] theorem clearWork_reads : (clearWork s).reads = s.reads := rfl
end

section
variable (s : State)
@[simp] theorem markDone_cfg : (markDone s).cfg = s.cfg := rfl
@[simp] theorem markDone_busy : (markDone s).busy = false := rfl
@[simp] theorem markDone_done : (markDone s).done = true := rfl
@[simp] theorem markDone_errf : (markDone s).errf = s.errf := rfl
@[simp] theorem markDone_ctxValid : (markDone s).ctxValid = s.ctxValid := rfl
@[simp] theorem markDone_err : (markDone s).err = s.err := rfl
@[simp] theorem markDone_devstat : (markDone s).devstat = s.devstat := rfl
@[simp] theorem markDone_outlen : (markDone s).outlen = s.outlen := rfl
@[simp] theorem markDone_crcout : (markDone s).crcout = s.crcout := rfl
@[simp] theorem markDone_ops : (markDone s).ops = s.ops := rfl
@[simp] theorem markDone_ctx : (markDone s).ctx = s.ctx := rfl
@[simp] theorem markDone_inbuf : (markDone s).inbuf = s.inbuf := rfl
@[simp] theorem markDone_outbuf : (markDone s).outbuf = s.outbuf := rfl
@[simp] theorem markDone_crcreg : (markDone s).crcreg = s.crcreg := rfl
@[simp] theorem markDone_txbuf : (markDone s).txbuf = s.txbuf := rfl
@[simp] theorem markDone_txlen : (markDone s).txlen = s.txlen := rfl
@[simp] theorem markDone_rxbuf : (markDone s).rxbuf = s.rxbuf := rfl
@[simp] theorem markDone_rxcnt : (markDone s).rxcnt = s.rxcnt := rfl
@[simp] theorem markDone_attempts : (markDone s).attempts = s.attempts := rfl
@[simp] theorem markDone_cv : (markDone s).cv = s.cv := rfl
@[simp] theorem markDone_work : (markDone s).work = s.work := rfl
@[simp] theorem markDone_worklen : (markDone s).worklen = s.worklen := rfl
@[simp] theorem markDone_blk : (markDone s).blk = s.blk := rfl
@[simp] theorem markDone_seq : (markDone s).seq = .sIdle := rfl
@[simp] theorem markDone_cur : (markDone s).cur = s.cur := rfl
@[simp] theorem markDone_pend : (markDone s).pend = none := rfl
@[simp] theorem markDone_plainLen : (markDone s).plainLen = 0 := rfl
@[simp] theorem markDone_trace : (markDone s).trace = s.trace := rfl
@[simp] theorem markDone_answers : (markDone s).answers = s.answers := rfl
@[simp] theorem markDone_era : (markDone s).era = s.era := rfl
@[simp] theorem markDone_hostq : (markDone s).hostq = s.hostq := rfl
@[simp] theorem markDone_reads : (markDone s).reads = s.reads := rfl
end

section
variable (e : Err) (s : State)
@[simp] theorem writeError_cfg : (writeError e s).cfg = s.cfg := rfl
@[simp] theorem writeError_busy : (writeError e s).busy = s.busy := rfl
@[simp] theorem writeError_done : (writeError e s).done = s.done := rfl
@[simp] theorem writeError_errf : (writeError e s).errf = true := rfl
@[simp] theorem writeError_ctxValid : (writeError e s).ctxValid = s.ctxValid := rfl
@[simp] theorem writeError_err : (writeError e s).err = errCode e := rfl
@[simp] theorem writeError_devstat : (writeError e s).devstat = errDevstat e := rfl
@[simp] theorem writeError_outlen : (writeError e s).outlen = 0 := rfl
@[simp] theorem writeError_crcout : (writeError e s).crcout = 0 := rfl
@[simp] theorem writeError_ops : (writeError e s).ops = s.ops := rfl
@[simp] theorem writeError_ctx : (writeError e s).ctx = s.ctx := rfl
@[simp] theorem writeError_inbuf : (writeError e s).inbuf = s.inbuf := rfl
@[simp] theorem writeError_outbuf : (writeError e s).outbuf = s.outbuf := rfl
@[simp] theorem writeError_crcreg : (writeError e s).crcreg = s.crcreg := rfl
@[simp] theorem writeError_txbuf : (writeError e s).txbuf = s.txbuf := rfl
@[simp] theorem writeError_txlen : (writeError e s).txlen = s.txlen := rfl
@[simp] theorem writeError_rxbuf : (writeError e s).rxbuf = s.rxbuf := rfl
@[simp] theorem writeError_rxcnt : (writeError e s).rxcnt = s.rxcnt := rfl
@[simp] theorem writeError_attempts : (writeError e s).attempts = s.attempts := rfl
@[simp] theorem writeError_cv : (writeError e s).cv = s.cv := rfl
@[simp] theorem writeError_work : (writeError e s).work = s.work := rfl
@[simp] theorem writeError_worklen : (writeError e s).worklen = s.worklen := rfl
@[simp] theorem writeError_blk : (writeError e s).blk = s.blk := rfl
@[simp] theorem writeError_seq : (writeError e s).seq = s.seq := rfl
@[simp] theorem writeError_cur : (writeError e s).cur = s.cur := rfl
@[simp] theorem writeError_pend : (writeError e s).pend = s.pend := rfl
@[simp] theorem writeError_plainLen : (writeError e s).plainLen = s.plainLen := rfl
@[simp] theorem writeError_trace : (writeError e s).trace = s.trace := rfl
@[simp] theorem writeError_answers : (writeError e s).answers = s.answers := rfl
@[simp] theorem writeError_era : (writeError e s).era = s.era := rfl
@[simp] theorem writeError_hostq : (writeError e s).hostq = s.hostq := rfl
@[simp] theorem writeError_reads : (writeError e s).reads = s.reads := rfl
end

section
variable (out : Bytes) (s : State)
@[simp] theorem releaseOut_cfg : (releaseOut out s).cfg = s.cfg := rfl
@[simp] theorem releaseOut_busy : (releaseOut out s).busy = s.busy := rfl
@[simp] theorem releaseOut_done : (releaseOut out s).done = s.done := rfl
@[simp] theorem releaseOut_errf : (releaseOut out s).errf = s.errf := rfl
@[simp] theorem releaseOut_ctxValid : (releaseOut out s).ctxValid = s.ctxValid := rfl
@[simp] theorem releaseOut_err : (releaseOut out s).err = s.err := rfl
@[simp] theorem releaseOut_devstat : (releaseOut out s).devstat = s.devstat := rfl
@[simp] theorem releaseOut_outlen : (releaseOut out s).outlen = BitVec.ofNat 16 out.length := rfl
@[simp] theorem releaseOut_crcout : (releaseOut out s).crcout = s.crcout := rfl
@[simp] theorem releaseOut_ops : (releaseOut out s).ops = s.ops := rfl
@[simp] theorem releaseOut_ctx : (releaseOut out s).ctx = s.ctx := rfl
@[simp] theorem releaseOut_inbuf : (releaseOut out s).inbuf = s.inbuf := rfl
@[simp] theorem releaseOut_outbuf : (releaseOut out s).outbuf = s.outbuf.writeBytes 0 out := rfl
@[simp] theorem releaseOut_crcreg : (releaseOut out s).crcreg = s.crcreg := rfl
@[simp] theorem releaseOut_txbuf : (releaseOut out s).txbuf = s.txbuf := rfl
@[simp] theorem releaseOut_txlen : (releaseOut out s).txlen = s.txlen := rfl
@[simp] theorem releaseOut_rxbuf : (releaseOut out s).rxbuf = s.rxbuf := rfl
@[simp] theorem releaseOut_rxcnt : (releaseOut out s).rxcnt = s.rxcnt := rfl
@[simp] theorem releaseOut_attempts : (releaseOut out s).attempts = s.attempts := rfl
@[simp] theorem releaseOut_cv : (releaseOut out s).cv = s.cv := rfl
@[simp] theorem releaseOut_work : (releaseOut out s).work = s.work := rfl
@[simp] theorem releaseOut_worklen : (releaseOut out s).worklen = s.worklen := rfl
@[simp] theorem releaseOut_blk : (releaseOut out s).blk = s.blk := rfl
@[simp] theorem releaseOut_seq : (releaseOut out s).seq = s.seq := rfl
@[simp] theorem releaseOut_cur : (releaseOut out s).cur = s.cur := rfl
@[simp] theorem releaseOut_pend : (releaseOut out s).pend = s.pend := rfl
@[simp] theorem releaseOut_plainLen : (releaseOut out s).plainLen = s.plainLen := rfl
@[simp] theorem releaseOut_trace : (releaseOut out s).trace = s.trace := rfl
@[simp] theorem releaseOut_answers : (releaseOut out s).answers = s.answers := rfl
@[simp] theorem releaseOut_era : (releaseOut out s).era = s.era := rfl
@[simp] theorem releaseOut_hostq : (releaseOut out s).hostq = s.hostq := rfl
@[simp] theorem releaseOut_reads : (releaseOut out s).reads = s.reads := rfl
end

section
variable (n : Nat) (s : State)
@[simp] theorem setOutlen_cfg : (setOutlen n s).cfg = s.cfg := rfl
@[simp] theorem setOutlen_busy : (setOutlen n s).busy = s.busy := rfl
@[simp] theorem setOutlen_done : (setOutlen n s).done = s.done := rfl
@[simp] theorem setOutlen_errf : (setOutlen n s).errf = s.errf := rfl
@[simp] theorem setOutlen_ctxValid : (setOutlen n s).ctxValid = s.ctxValid := rfl
@[simp] theorem setOutlen_err : (setOutlen n s).err = s.err := rfl
@[simp] theorem setOutlen_devstat : (setOutlen n s).devstat = s.devstat := rfl
@[simp] theorem setOutlen_outlen : (setOutlen n s).outlen = BitVec.ofNat 16 n := rfl
@[simp] theorem setOutlen_crcout : (setOutlen n s).crcout = s.crcout := rfl
@[simp] theorem setOutlen_ops : (setOutlen n s).ops = s.ops := rfl
@[simp] theorem setOutlen_ctx : (setOutlen n s).ctx = s.ctx := rfl
@[simp] theorem setOutlen_inbuf : (setOutlen n s).inbuf = s.inbuf := rfl
@[simp] theorem setOutlen_outbuf : (setOutlen n s).outbuf = s.outbuf := rfl
@[simp] theorem setOutlen_crcreg : (setOutlen n s).crcreg = s.crcreg := rfl
@[simp] theorem setOutlen_txbuf : (setOutlen n s).txbuf = s.txbuf := rfl
@[simp] theorem setOutlen_txlen : (setOutlen n s).txlen = s.txlen := rfl
@[simp] theorem setOutlen_rxbuf : (setOutlen n s).rxbuf = s.rxbuf := rfl
@[simp] theorem setOutlen_rxcnt : (setOutlen n s).rxcnt = s.rxcnt := rfl
@[simp] theorem setOutlen_attempts : (setOutlen n s).attempts = s.attempts := rfl
@[simp] theorem setOutlen_cv : (setOutlen n s).cv = s.cv := rfl
@[simp] theorem setOutlen_work : (setOutlen n s).work = s.work := rfl
@[simp] theorem setOutlen_worklen : (setOutlen n s).worklen = s.worklen := rfl
@[simp] theorem setOutlen_blk : (setOutlen n s).blk = s.blk := rfl
@[simp] theorem setOutlen_seq : (setOutlen n s).seq = s.seq := rfl
@[simp] theorem setOutlen_cur : (setOutlen n s).cur = s.cur := rfl
@[simp] theorem setOutlen_pend : (setOutlen n s).pend = s.pend := rfl
@[simp] theorem setOutlen_plainLen : (setOutlen n s).plainLen = s.plainLen := rfl
@[simp] theorem setOutlen_trace : (setOutlen n s).trace = s.trace := rfl
@[simp] theorem setOutlen_answers : (setOutlen n s).answers = s.answers := rfl
@[simp] theorem setOutlen_era : (setOutlen n s).era = s.era := rfl
@[simp] theorem setOutlen_hostq : (setOutlen n s).hostq = s.hostq := rfl
@[simp] theorem setOutlen_reads : (setOutlen n s).reads = s.reads := rfl
end

section
variable (r : Word16) (s : State)
@[simp] theorem setCrcout_cfg : (setCrcout r s).cfg = s.cfg := rfl
@[simp] theorem setCrcout_busy : (setCrcout r s).busy = s.busy := rfl
@[simp] theorem setCrcout_done : (setCrcout r s).done = s.done := rfl
@[simp] theorem setCrcout_errf : (setCrcout r s).errf = s.errf := rfl
@[simp] theorem setCrcout_ctxValid : (setCrcout r s).ctxValid = s.ctxValid := rfl
@[simp] theorem setCrcout_err : (setCrcout r s).err = s.err := rfl
@[simp] theorem setCrcout_devstat : (setCrcout r s).devstat = s.devstat := rfl
@[simp] theorem setCrcout_outlen : (setCrcout r s).outlen = s.outlen := rfl
@[simp] theorem setCrcout_crcout : (setCrcout r s).crcout = r := rfl
@[simp] theorem setCrcout_ops : (setCrcout r s).ops = s.ops := rfl
@[simp] theorem setCrcout_ctx : (setCrcout r s).ctx = s.ctx := rfl
@[simp] theorem setCrcout_inbuf : (setCrcout r s).inbuf = s.inbuf := rfl
@[simp] theorem setCrcout_outbuf : (setCrcout r s).outbuf = s.outbuf := rfl
@[simp] theorem setCrcout_crcreg : (setCrcout r s).crcreg = s.crcreg := rfl
@[simp] theorem setCrcout_txbuf : (setCrcout r s).txbuf = s.txbuf := rfl
@[simp] theorem setCrcout_txlen : (setCrcout r s).txlen = s.txlen := rfl
@[simp] theorem setCrcout_rxbuf : (setCrcout r s).rxbuf = s.rxbuf := rfl
@[simp] theorem setCrcout_rxcnt : (setCrcout r s).rxcnt = s.rxcnt := rfl
@[simp] theorem setCrcout_attempts : (setCrcout r s).attempts = s.attempts := rfl
@[simp] theorem setCrcout_cv : (setCrcout r s).cv = s.cv := rfl
@[simp] theorem setCrcout_work : (setCrcout r s).work = s.work := rfl
@[simp] theorem setCrcout_worklen : (setCrcout r s).worklen = s.worklen := rfl
@[simp] theorem setCrcout_blk : (setCrcout r s).blk = s.blk := rfl
@[simp] theorem setCrcout_seq : (setCrcout r s).seq = s.seq := rfl
@[simp] theorem setCrcout_cur : (setCrcout r s).cur = s.cur := rfl
@[simp] theorem setCrcout_pend : (setCrcout r s).pend = s.pend := rfl
@[simp] theorem setCrcout_plainLen : (setCrcout r s).plainLen = s.plainLen := rfl
@[simp] theorem setCrcout_trace : (setCrcout r s).trace = s.trace := rfl
@[simp] theorem setCrcout_answers : (setCrcout r s).answers = s.answers := rfl
@[simp] theorem setCrcout_era : (setCrcout r s).era = s.era := rfl
@[simp] theorem setCrcout_hostq : (setCrcout r s).hostq = s.hostq := rfl
@[simp] theorem setCrcout_reads : (setCrcout r s).reads = s.reads := rfl
end

section
variable (v : Bool) (s : State)
@[simp] theorem setCtxValid_cfg : (setCtxValid v s).cfg = s.cfg := rfl
@[simp] theorem setCtxValid_busy : (setCtxValid v s).busy = s.busy := rfl
@[simp] theorem setCtxValid_done : (setCtxValid v s).done = s.done := rfl
@[simp] theorem setCtxValid_errf : (setCtxValid v s).errf = s.errf := rfl
@[simp] theorem setCtxValid_ctxValid : (setCtxValid v s).ctxValid = v := rfl
@[simp] theorem setCtxValid_err : (setCtxValid v s).err = s.err := rfl
@[simp] theorem setCtxValid_devstat : (setCtxValid v s).devstat = s.devstat := rfl
@[simp] theorem setCtxValid_outlen : (setCtxValid v s).outlen = s.outlen := rfl
@[simp] theorem setCtxValid_crcout : (setCtxValid v s).crcout = s.crcout := rfl
@[simp] theorem setCtxValid_ops : (setCtxValid v s).ops = s.ops := rfl
@[simp] theorem setCtxValid_ctx : (setCtxValid v s).ctx = s.ctx := rfl
@[simp] theorem setCtxValid_inbuf : (setCtxValid v s).inbuf = s.inbuf := rfl
@[simp] theorem setCtxValid_outbuf : (setCtxValid v s).outbuf = s.outbuf := rfl
@[simp] theorem setCtxValid_crcreg : (setCtxValid v s).crcreg = s.crcreg := rfl
@[simp] theorem setCtxValid_txbuf : (setCtxValid v s).txbuf = s.txbuf := rfl
@[simp] theorem setCtxValid_txlen : (setCtxValid v s).txlen = s.txlen := rfl
@[simp] theorem setCtxValid_rxbuf : (setCtxValid v s).rxbuf = s.rxbuf := rfl
@[simp] theorem setCtxValid_rxcnt : (setCtxValid v s).rxcnt = s.rxcnt := rfl
@[simp] theorem setCtxValid_attempts : (setCtxValid v s).attempts = s.attempts := rfl
@[simp] theorem setCtxValid_cv : (setCtxValid v s).cv = s.cv := rfl
@[simp] theorem setCtxValid_work : (setCtxValid v s).work = s.work := rfl
@[simp] theorem setCtxValid_worklen : (setCtxValid v s).worklen = s.worklen := rfl
@[simp] theorem setCtxValid_blk : (setCtxValid v s).blk = s.blk := rfl
@[simp] theorem setCtxValid_seq : (setCtxValid v s).seq = s.seq := rfl
@[simp] theorem setCtxValid_cur : (setCtxValid v s).cur = s.cur := rfl
@[simp] theorem setCtxValid_pend : (setCtxValid v s).pend = s.pend := rfl
@[simp] theorem setCtxValid_plainLen : (setCtxValid v s).plainLen = s.plainLen := rfl
@[simp] theorem setCtxValid_trace : (setCtxValid v s).trace = s.trace := rfl
@[simp] theorem setCtxValid_answers : (setCtxValid v s).answers = s.answers := rfl
@[simp] theorem setCtxValid_era : (setCtxValid v s).era = s.era := rfl
@[simp] theorem setCtxValid_hostq : (setCtxValid v s).hostq = s.hostq := rfl
@[simp] theorem setCtxValid_reads : (setCtxValid v s).reads = s.reads := rfl
end

section
variable (c : Context) (s : State)
@[simp] theorem setContext_cfg : (setContext c s).cfg = s.cfg := rfl
@[simp] theorem setContext_busy : (setContext c s).busy = s.busy := rfl
@[simp] theorem setContext_done : (setContext c s).done = s.done := rfl
@[simp] theorem setContext_errf : (setContext c s).errf = s.errf := rfl
@[simp] theorem setContext_ctxValid : (setContext c s).ctxValid = true := rfl
@[simp] theorem setContext_err : (setContext c s).err = s.err := rfl
@[simp] theorem setContext_devstat : (setContext c s).devstat = s.devstat := rfl
@[simp] theorem setContext_outlen : (setContext c s).outlen = s.outlen := rfl
@[simp] theorem setContext_crcout : (setContext c s).crcout = s.crcout := rfl
@[simp] theorem setContext_ops : (setContext c s).ops = s.ops := rfl
@[simp] theorem setContext_ctx : (setContext c s).ctx = c := rfl
@[simp] theorem setContext_inbuf : (setContext c s).inbuf = s.inbuf := rfl
@[simp] theorem setContext_outbuf : (setContext c s).outbuf = s.outbuf := rfl
@[simp] theorem setContext_crcreg : (setContext c s).crcreg = s.crcreg := rfl
@[simp] theorem setContext_txbuf : (setContext c s).txbuf = s.txbuf := rfl
@[simp] theorem setContext_txlen : (setContext c s).txlen = s.txlen := rfl
@[simp] theorem setContext_rxbuf : (setContext c s).rxbuf = s.rxbuf := rfl
@[simp] theorem setContext_rxcnt : (setContext c s).rxcnt = s.rxcnt := rfl
@[simp] theorem setContext_attempts : (setContext c s).attempts = s.attempts := rfl
@[simp] theorem setContext_cv : (setContext c s).cv = s.cv := rfl
@[simp] theorem setContext_work : (setContext c s).work = s.work := rfl
@[simp] theorem setContext_worklen : (setContext c s).worklen = s.worklen := rfl
@[simp] theorem setContext_blk : (setContext c s).blk = s.blk := rfl
@[simp] theorem setContext_seq : (setContext c s).seq = s.seq := rfl
@[simp] theorem setContext_cur : (setContext c s).cur = s.cur := rfl
@[simp] theorem setContext_pend : (setContext c s).pend = s.pend := rfl
@[simp] theorem setContext_plainLen : (setContext c s).plainLen = s.plainLen := rfl
@[simp] theorem setContext_trace : (setContext c s).trace = s.trace := rfl
@[simp] theorem setContext_answers : (setContext c s).answers = s.answers := rfl
@[simp] theorem setContext_era : (setContext c s).era = s.era := rfl
@[simp] theorem setContext_hostq : (setContext c s).hostq = s.hostq := rfl
@[simp] theorem setContext_reads : (setContext c s).reads = s.reads := rfl
end

section
variable (data : Bytes) (s : State)
@[simp] theorem loadWork_cfg : (loadWork data s).cfg = s.cfg := rfl
@[simp] theorem loadWork_busy : (loadWork data s).busy = s.busy := rfl
@[simp] theorem loadWork_done : (loadWork data s).done = s.done := rfl
@[simp] theorem loadWork_errf : (loadWork data s).errf = s.errf := rfl
@[simp] theorem loadWork_ctxValid : (loadWork data s).ctxValid = s.ctxValid := rfl
@[simp] theorem loadWork_err : (loadWork data s).err = s.err := rfl
@[simp] theorem loadWork_devstat : (loadWork data s).devstat = s.devstat := rfl
@[simp] theorem loadWork_outlen : (loadWork data s).outlen = s.outlen := rfl
@[simp] theorem loadWork_crcout : (loadWork data s).crcout = s.crcout := rfl
@[simp] theorem loadWork_ops : (loadWork data s).ops = s.ops := rfl
@[simp] theorem loadWork_ctx : (loadWork data s).ctx = s.ctx := rfl
@[simp] theorem loadWork_inbuf : (loadWork data s).inbuf = s.inbuf := rfl
@[simp] theorem loadWork_outbuf : (loadWork data s).outbuf = s.outbuf := rfl
@[simp] theorem loadWork_crcreg : (loadWork data s).crcreg = s.crcreg := rfl
@[simp] theorem loadWork_txbuf : (loadWork data s).txbuf = s.txbuf := rfl
@[simp] theorem loadWork_txlen : (loadWork data s).txlen = s.txlen := rfl
@[simp] theorem loadWork_rxbuf : (loadWork data s).rxbuf = s.rxbuf := rfl
@[simp] theorem loadWork_rxcnt : (loadWork data s).rxcnt = s.rxcnt := rfl
@[simp] theorem loadWork_attempts : (loadWork data s).attempts = s.attempts := rfl
@[simp] theorem loadWork_cv : (loadWork data s).cv = (match modeOfBit s.ctx.mode with | .ecb => s.cv | .cbc => s.ctx.iv) := rfl
@[simp] theorem loadWork_work : (loadWork data s).work = s.work.writeBytes 0 data := rfl
@[simp] theorem loadWork_worklen : (loadWork data s).worklen = data.length := rfl
@[simp] theorem loadWork_blk : (loadWork data s).blk = s.blk := rfl
@[simp] theorem loadWork_seq : (loadWork data s).seq = s.seq := rfl
@[simp] theorem loadWork_cur : (loadWork data s).cur = s.cur := rfl
@[simp] theorem loadWork_pend : (loadWork data s).pend = s.pend := rfl
@[simp] theorem loadWork_plainLen : (loadWork data s).plainLen = s.plainLen := rfl
@[simp] theorem loadWork_trace : (loadWork data s).trace = s.trace := rfl
@[simp] theorem loadWork_answers : (loadWork data s).answers = s.answers := rfl
@[simp] theorem loadWork_era : (loadWork data s).era = s.era := rfl
@[simp] theorem loadWork_hostq : (loadWork data s).hostq = s.hostq := rfl
@[simp] theorem loadWork_reads : (loadWork data s).reads = s.reads := rfl
end

section
variable (c : Bytes) (s : State)
@[simp] theorem encStore_cfg : (encStore c s).cfg = s.cfg := rfl
@[simp] theorem encStore_busy : (encStore c s).busy = s.busy := rfl
@[simp] theorem encStore_done : (encStore c s).done = s.done := rfl
@[simp] theorem encStore_errf : (encStore c s).errf = s.errf := rfl
@[simp] theorem encStore_ctxValid : (encStore c s).ctxValid = s.ctxValid := rfl
@[simp] theorem encStore_err : (encStore c s).err = s.err := rfl
@[simp] theorem encStore_devstat : (encStore c s).devstat = s.devstat := rfl
@[simp] theorem encStore_outlen : (encStore c s).outlen = s.outlen := rfl
@[simp] theorem encStore_crcout : (encStore c s).crcout = s.crcout := rfl
@[simp] theorem encStore_ops : (encStore c s).ops = s.ops := rfl
@[simp] theorem encStore_ctx : (encStore c s).ctx = s.ctx := rfl
@[simp] theorem encStore_inbuf : (encStore c s).inbuf = s.inbuf := rfl
@[simp] theorem encStore_outbuf : (encStore c s).outbuf = s.outbuf := rfl
@[simp] theorem encStore_crcreg : (encStore c s).crcreg = s.crcreg := rfl
@[simp] theorem encStore_txbuf : (encStore c s).txbuf = s.txbuf := rfl
@[simp] theorem encStore_txlen : (encStore c s).txlen = s.txlen := rfl
@[simp] theorem encStore_rxbuf : (encStore c s).rxbuf = s.rxbuf := rfl
@[simp] theorem encStore_rxcnt : (encStore c s).rxcnt = s.rxcnt := rfl
@[simp] theorem encStore_attempts : (encStore c s).attempts = s.attempts := rfl
@[simp] theorem encStore_cv : (encStore c s).cv = (match modeOfBit s.ctx.mode with | .ecb => s.cv | .cbc => ivOfBytes c) := rfl
@[simp] theorem encStore_work : (encStore c s).work = s.work.writeBytes (16 * s.blk) c := rfl
@[simp] theorem encStore_worklen : (encStore c s).worklen = s.worklen := rfl
@[simp] theorem encStore_blk : (encStore c s).blk = s.blk + 1 := rfl
@[simp] theorem encStore_seq : (encStore c s).seq = s.seq := rfl
@[simp] theorem encStore_cur : (encStore c s).cur = s.cur := rfl
@[simp] theorem encStore_pend : (encStore c s).pend = s.pend := rfl
@[simp] theorem encStore_plainLen : (encStore c s).plainLen = s.plainLen := rfl
@[simp] theorem encStore_trace : (encStore c s).trace = s.trace := rfl
@[simp] theorem encStore_answers : (encStore c s).answers = s.answers := rfl
@[simp] theorem encStore_era : (encStore c s).era = s.era := rfl
@[simp] theorem encStore_hostq : (encStore c s).hostq = s.hostq := rfl
@[simp] theorem encStore_reads : (encStore c s).reads = s.reads := rfl
end

section
variable (s : State)
@[simp] theorem loadIv_cfg : (loadIv s).cfg = s.cfg := rfl
@[simp] theorem loadIv_busy : (loadIv s).busy = s.busy := rfl
@[simp] theorem loadIv_done : (loadIv s).done = s.done := rfl
@[simp] theorem loadIv_errf : (loadIv s).errf = s.errf := rfl
@[simp] theorem loadIv_ctxValid : (loadIv s).ctxValid = s.ctxValid := rfl
@[simp] theorem loadIv_err : (loadIv s).err = s.err := rfl
@[simp] theorem loadIv_devstat : (loadIv s).devstat = s.devstat := rfl
@[simp] theorem loadIv_outlen : (loadIv s).outlen = s.outlen := rfl
@[simp] theorem loadIv_crcout : (loadIv s).crcout = s.crcout := rfl
@[simp] theorem loadIv_ops : (loadIv s).ops = s.ops := rfl
@[simp] theorem loadIv_ctx : (loadIv s).ctx = s.ctx := rfl
@[simp] theorem loadIv_inbuf : (loadIv s).inbuf = s.inbuf := rfl
@[simp] theorem loadIv_outbuf : (loadIv s).outbuf = s.outbuf := rfl
@[simp] theorem loadIv_crcreg : (loadIv s).crcreg = s.crcreg := rfl
@[simp] theorem loadIv_txbuf : (loadIv s).txbuf = s.txbuf := rfl
@[simp] theorem loadIv_txlen : (loadIv s).txlen = s.txlen := rfl
@[simp] theorem loadIv_rxbuf : (loadIv s).rxbuf = s.rxbuf := rfl
@[simp] theorem loadIv_rxcnt : (loadIv s).rxcnt = s.rxcnt := rfl
@[simp] theorem loadIv_attempts : (loadIv s).attempts = s.attempts := rfl
@[simp] theorem loadIv_cv : (loadIv s).cv = (match modeOfBit s.ctx.mode with | .ecb => s.cv | .cbc => s.ctx.iv) := rfl
@[simp] theorem loadIv_work : (loadIv s).work = s.work := rfl
@[simp] theorem loadIv_worklen : (loadIv s).worklen = s.worklen := rfl
@[simp] theorem loadIv_blk : (loadIv s).blk = s.blk := rfl
@[simp] theorem loadIv_seq : (loadIv s).seq = s.seq := rfl
@[simp] theorem loadIv_cur : (loadIv s).cur = s.cur := rfl
@[simp] theorem loadIv_pend : (loadIv s).pend = s.pend := rfl
@[simp] theorem loadIv_plainLen : (loadIv s).plainLen = s.plainLen := rfl
@[simp] theorem loadIv_trace : (loadIv s).trace = s.trace := rfl
@[simp] theorem loadIv_answers : (loadIv s).answers = s.answers := rfl
@[simp] theorem loadIv_era : (loadIv s).era = s.era := rfl
@[simp] theorem loadIv_hostq : (loadIv s).hostq = s.hostq := rfl
@[simp] theorem loadIv_reads : (loadIv s).reads = s.reads := rfl
end

section
variable (c d : Bytes) (s : State)
@[simp] theorem decStore_cfg : (decStore c d s).cfg = s.cfg := rfl
@[simp] theorem decStore_busy : (decStore c d s).busy = s.busy := rfl
@[simp] theorem decStore_done : (decStore c d s).done = s.done := rfl
@[simp] theorem decStore_errf : (decStore c d s).errf = s.errf := rfl
@[simp] theorem decStore_ctxValid : (decStore c d s).ctxValid = s.ctxValid := rfl
@[simp] theorem decStore_err : (decStore c d s).err = s.err := rfl
@[simp] theorem decStore_devstat : (decStore c d s).devstat = s.devstat := rfl
@[simp] theorem decStore_outlen : (decStore c d s).outlen = s.outlen := rfl
@[simp] theorem decStore_crcout : (decStore c d s).crcout = s.crcout := rfl
@[simp] theorem decStore_ops : (decStore c d s).ops = s.ops := rfl
@[simp] theorem decStore_ctx : (decStore c d s).ctx = s.ctx := rfl
@[simp] theorem decStore_inbuf : (decStore c d s).inbuf = s.inbuf := rfl
@[simp] theorem decStore_outbuf : (decStore c d s).outbuf = s.outbuf := rfl
@[simp] theorem decStore_crcreg : (decStore c d s).crcreg = s.crcreg := rfl
@[simp] theorem decStore_txbuf : (decStore c d s).txbuf = s.txbuf := rfl
@[simp] theorem decStore_txlen : (decStore c d s).txlen = s.txlen := rfl
@[simp] theorem decStore_rxbuf : (decStore c d s).rxbuf = s.rxbuf := rfl
@[simp] theorem decStore_rxcnt : (decStore c d s).rxcnt = s.rxcnt := rfl
@[simp] theorem decStore_attempts : (decStore c d s).attempts = s.attempts := rfl
@[simp] theorem decStore_cv : (decStore c d s).cv = (match modeOfBit s.ctx.mode with | .ecb => s.cv | .cbc => ivOfBytes c) := rfl
@[simp] theorem decStore_work : (decStore c d s).work = s.work.writeBytes (16 * s.blk) (decOutput d s) := rfl
@[simp] theorem decStore_worklen : (decStore c d s).worklen = s.worklen := rfl
@[simp] theorem decStore_blk : (decStore c d s).blk = s.blk + 1 := rfl
@[simp] theorem decStore_seq : (decStore c d s).seq = s.seq := rfl
@[simp] theorem decStore_cur : (decStore c d s).cur = s.cur := rfl
@[simp] theorem decStore_pend : (decStore c d s).pend = s.pend := rfl
@[simp] theorem decStore_plainLen : (decStore c d s).plainLen = s.plainLen := rfl
@[simp] theorem decStore_trace : (decStore c d s).trace = s.trace := rfl
@[simp] theorem decStore_answers : (decStore c d s).answers = s.answers := rfl
@[simp] theorem decStore_era : (decStore c d s).era = s.era := rfl
@[simp] theorem decStore_hostq : (decStore c d s).hostq = s.hostq := rfl
@[simp] theorem decStore_reads : (decStore c d s).reads = s.reads := rfl
end

section
variable (n : Nat) (s : State)
@[simp] theorem setWorklen_cfg : (setWorklen n s).cfg = s.cfg := rfl
@[simp] theorem setWorklen_busy : (setWorklen n s).busy = s.busy := rfl
@[simp] theorem setWorklen_done : (setWorklen n s).done = s.done := rfl
@[simp] theorem setWorklen_errf : (setWorklen n s).errf = s.errf := rfl
@[simp] theorem setWorklen_ctxValid : (setWorklen n s).ctxValid = s.ctxValid := rfl
@[simp] theorem setWorklen_err : (setWorklen n s).err = s.err := rfl
@[simp] theorem setWorklen_devstat : (setWorklen n s).devstat = s.devstat := rfl
@[simp] theorem setWorklen_outlen : (setWorklen n s).outlen = s.outlen := rfl
@[simp] theorem setWorklen_crcout : (setWorklen n s).crcout = s.crcout := rfl
@[simp] theorem setWorklen_ops : (setWorklen n s).ops = s.ops := rfl
@[simp] theorem setWorklen_ctx : (setWorklen n s).ctx = s.ctx := rfl
@[simp] theorem setWorklen_inbuf : (setWorklen n s).inbuf = s.inbuf := rfl
@[simp] theorem setWorklen_outbuf : (setWorklen n s).outbuf = s.outbuf := rfl
@[simp] theorem setWorklen_crcreg : (setWorklen n s).crcreg = s.crcreg := rfl
@[simp] theorem setWorklen_txbuf : (setWorklen n s).txbuf = s.txbuf := rfl
@[simp] theorem setWorklen_txlen : (setWorklen n s).txlen = s.txlen := rfl
@[simp] theorem setWorklen_rxbuf : (setWorklen n s).rxbuf = s.rxbuf := rfl
@[simp] theorem setWorklen_rxcnt : (setWorklen n s).rxcnt = s.rxcnt := rfl
@[simp] theorem setWorklen_attempts : (setWorklen n s).attempts = s.attempts := rfl
@[simp] theorem setWorklen_cv : (setWorklen n s).cv = s.cv := rfl
@[simp] theorem setWorklen_work : (setWorklen n s).work = s.work := rfl
@[simp] theorem setWorklen_worklen : (setWorklen n s).worklen = n := rfl
@[simp] theorem setWorklen_blk : (setWorklen n s).blk = s.blk := rfl
@[simp] theorem setWorklen_seq : (setWorklen n s).seq = s.seq := rfl
@[simp] theorem setWorklen_cur : (setWorklen n s).cur = s.cur := rfl
@[simp] theorem setWorklen_pend : (setWorklen n s).pend = s.pend := rfl
@[simp] theorem setWorklen_plainLen : (setWorklen n s).plainLen = s.plainLen := rfl
@[simp] theorem setWorklen_trace : (setWorklen n s).trace = s.trace := rfl
@[simp] theorem setWorklen_answers : (setWorklen n s).answers = s.answers := rfl
@[simp] theorem setWorklen_era : (setWorklen n s).era = s.era := rfl
@[simp] theorem setWorklen_hostq : (setWorklen n s).hostq = s.hostq := rfl
@[simp] theorem setWorklen_reads : (setWorklen n s).reads = s.reads := rfl
end

section
variable (q : SeqState) (s : State)
@[simp] theorem seqGoto_cfg : (seqGoto q s).cfg = s.cfg := rfl
@[simp] theorem seqGoto_busy : (seqGoto q s).busy = s.busy := rfl
@[simp] theorem seqGoto_done : (seqGoto q s).done = s.done := rfl
@[simp] theorem seqGoto_errf : (seqGoto q s).errf = s.errf := rfl
@[simp] theorem seqGoto_ctxValid : (seqGoto q s).ctxValid = s.ctxValid := rfl
@[simp] theorem seqGoto_err : (seqGoto q s).err = s.err := rfl
@[simp] theorem seqGoto_devstat : (seqGoto q s).devstat = s.devstat := rfl
@[simp] theorem seqGoto_outlen : (seqGoto q s).outlen = s.outlen := rfl
@[simp] theorem seqGoto_crcout : (seqGoto q s).crcout = s.crcout := rfl
@[simp] theorem seqGoto_ops : (seqGoto q s).ops = s.ops := rfl
@[simp] theorem seqGoto_ctx : (seqGoto q s).ctx = s.ctx := rfl
@[simp] theorem seqGoto_inbuf : (seqGoto q s).inbuf = s.inbuf := rfl
@[simp] theorem seqGoto_outbuf : (seqGoto q s).outbuf = s.outbuf := rfl
@[simp] theorem seqGoto_crcreg : (seqGoto q s).crcreg = s.crcreg := rfl
@[simp] theorem seqGoto_txbuf : (seqGoto q s).txbuf = s.txbuf := rfl
@[simp] theorem seqGoto_txlen : (seqGoto q s).txlen = s.txlen := rfl
@[simp] theorem seqGoto_rxbuf : (seqGoto q s).rxbuf = s.rxbuf := rfl
@[simp] theorem seqGoto_rxcnt : (seqGoto q s).rxcnt = s.rxcnt := rfl
@[simp] theorem seqGoto_attempts : (seqGoto q s).attempts = s.attempts := rfl
@[simp] theorem seqGoto_cv : (seqGoto q s).cv = s.cv := rfl
@[simp] theorem seqGoto_work : (seqGoto q s).work = s.work := rfl
@[simp] theorem seqGoto_worklen : (seqGoto q s).worklen = s.worklen := rfl
@[simp] theorem seqGoto_blk : (seqGoto q s).blk = s.blk := rfl
@[simp] theorem seqGoto_seq : (seqGoto q s).seq = q := rfl
@[simp] theorem seqGoto_cur : (seqGoto q s).cur = s.cur := rfl
@[simp] theorem seqGoto_pend : (seqGoto q s).pend = s.pend := rfl
@[simp] theorem seqGoto_plainLen : (seqGoto q s).plainLen = s.plainLen := rfl
@[simp] theorem seqGoto_trace : (seqGoto q s).trace = s.trace := rfl
@[simp] theorem seqGoto_answers : (seqGoto q s).answers = s.answers := rfl
@[simp] theorem seqGoto_era : (seqGoto q s).era = s.era := rfl
@[simp] theorem seqGoto_hostq : (seqGoto q s).hostq = s.hostq := rfl
@[simp] theorem seqGoto_reads : (seqGoto q s).reads = s.reads := rfl
end

section
variable (e : Err) (s : State)
@[simp] theorem seqFail_cfg : (seqFail e s).cfg = s.cfg := rfl
@[simp] theorem seqFail_busy : (seqFail e s).busy = s.busy := rfl
@[simp] theorem seqFail_done : (seqFail e s).done = s.done := rfl
@[simp] theorem seqFail_errf : (seqFail e s).errf = s.errf := rfl
@[simp] theorem seqFail_ctxValid : (seqFail e s).ctxValid = s.ctxValid := rfl
@[simp] theorem seqFail_err : (seqFail e s).err = s.err := rfl
@[simp] theorem seqFail_devstat : (seqFail e s).devstat = s.devstat := rfl
@[simp] theorem seqFail_outlen : (seqFail e s).outlen = s.outlen := rfl
@[simp] theorem seqFail_crcout : (seqFail e s).crcout = s.crcout := rfl
@[simp] theorem seqFail_ops : (seqFail e s).ops = s.ops := rfl
@[simp] theorem seqFail_ctx : (seqFail e s).ctx = s.ctx := rfl
@[simp] theorem seqFail_inbuf : (seqFail e s).inbuf = s.inbuf := rfl
@[simp] theorem seqFail_outbuf : (seqFail e s).outbuf = s.outbuf := rfl
@[simp] theorem seqFail_crcreg : (seqFail e s).crcreg = s.crcreg := rfl
@[simp] theorem seqFail_txbuf : (seqFail e s).txbuf = s.txbuf := rfl
@[simp] theorem seqFail_txlen : (seqFail e s).txlen = s.txlen := rfl
@[simp] theorem seqFail_rxbuf : (seqFail e s).rxbuf = s.rxbuf := rfl
@[simp] theorem seqFail_rxcnt : (seqFail e s).rxcnt = s.rxcnt := rfl
@[simp] theorem seqFail_attempts : (seqFail e s).attempts = s.attempts := rfl
@[simp] theorem seqFail_cv : (seqFail e s).cv = s.cv := rfl
@[simp] theorem seqFail_work : (seqFail e s).work = s.work := rfl
@[simp] theorem seqFail_worklen : (seqFail e s).worklen = s.worklen := rfl
@[simp] theorem seqFail_blk : (seqFail e s).blk = s.blk := rfl
@[simp] theorem seqFail_seq : (seqFail e s).seq = .sFail := rfl
@[simp] theorem seqFail_cur : (seqFail e s).cur = s.cur := rfl
@[simp] theorem seqFail_pend : (seqFail e s).pend = some e := rfl
@[simp] theorem seqFail_plainLen : (seqFail e s).plainLen = s.plainLen := rfl
@[simp] theorem seqFail_trace : (seqFail e s).trace = s.trace := rfl
@[simp] theorem seqFail_answers : (seqFail e s).answers = s.answers := rfl
@[simp] theorem seqFail_era : (seqFail e s).era = s.era := rfl
@[simp] theorem seqFail_hostq : (seqFail e s).hostq = s.hostq := rfl
@[simp] theorem seqFail_reads : (seqFail e s).reads = s.reads := rfl
end

section
variable (e : Err) (s : State)
@[simp] theorem seqToClassify_cfg : (seqToClassify e s).cfg = s.cfg := rfl
@[simp] theorem seqToClassify_busy : (seqToClassify e s).busy = s.busy := rfl
@[simp] theorem seqToClassify_done : (seqToClassify e s).done = s.done := rfl
@[simp] theorem seqToClassify_errf : (seqToClassify e s).errf = s.errf := rfl
@[simp] theorem seqToClassify_ctxValid : (seqToClassify e s).ctxValid = s.ctxValid := rfl
@[simp] theorem seqToClassify_err : (seqToClassify e s).err = s.err := rfl
@[simp] theorem seqToClassify_devstat : (seqToClassify e s).devstat = s.devstat := rfl
@[simp] theorem seqToClassify_outlen : (seqToClassify e s).outlen = s.outlen := rfl
@[simp] theorem seqToClassify_crcout : (seqToClassify e s).crcout = s.crcout := rfl
@[simp] theorem seqToClassify_ops : (seqToClassify e s).ops = s.ops := rfl
@[simp] theorem seqToClassify_ctx : (seqToClassify e s).ctx = s.ctx := rfl
@[simp] theorem seqToClassify_inbuf : (seqToClassify e s).inbuf = s.inbuf := rfl
@[simp] theorem seqToClassify_outbuf : (seqToClassify e s).outbuf = s.outbuf := rfl
@[simp] theorem seqToClassify_crcreg : (seqToClassify e s).crcreg = s.crcreg := rfl
@[simp] theorem seqToClassify_txbuf : (seqToClassify e s).txbuf = s.txbuf := rfl
@[simp] theorem seqToClassify_txlen : (seqToClassify e s).txlen = s.txlen := rfl
@[simp] theorem seqToClassify_rxbuf : (seqToClassify e s).rxbuf = s.rxbuf := rfl
@[simp] theorem seqToClassify_rxcnt : (seqToClassify e s).rxcnt = s.rxcnt := rfl
@[simp] theorem seqToClassify_attempts : (seqToClassify e s).attempts = s.attempts := rfl
@[simp] theorem seqToClassify_cv : (seqToClassify e s).cv = s.cv := rfl
@[simp] theorem seqToClassify_work : (seqToClassify e s).work = s.work := rfl
@[simp] theorem seqToClassify_worklen : (seqToClassify e s).worklen = s.worklen := rfl
@[simp] theorem seqToClassify_blk : (seqToClassify e s).blk = s.blk := rfl
@[simp] theorem seqToClassify_seq : (seqToClassify e s).seq = .sClassify := rfl
@[simp] theorem seqToClassify_cur : (seqToClassify e s).cur = s.cur := rfl
@[simp] theorem seqToClassify_pend : (seqToClassify e s).pend = some e := rfl
@[simp] theorem seqToClassify_plainLen : (seqToClassify e s).plainLen = s.plainLen := rfl
@[simp] theorem seqToClassify_trace : (seqToClassify e s).trace = s.trace := rfl
@[simp] theorem seqToClassify_answers : (seqToClassify e s).answers = s.answers := rfl
@[simp] theorem seqToClassify_era : (seqToClassify e s).era = s.era := rfl
@[simp] theorem seqToClassify_hostq : (seqToClassify e s).hostq = s.hostq := rfl
@[simp] theorem seqToClassify_reads : (seqToClassify e s).reads = s.reads := rfl
end

section
variable (n : Nat) (s : State)
@[simp] theorem setPlainLen_cfg : (setPlainLen n s).cfg = s.cfg := rfl
@[simp] theorem setPlainLen_busy : (setPlainLen n s).busy = s.busy := rfl
@[simp] theorem setPlainLen_done : (setPlainLen n s).done = s.done := rfl
@[simp] theorem setPlainLen_errf : (setPlainLen n s).errf = s.errf := rfl
@[simp] theorem setPlainLen_ctxValid : (setPlainLen n s).ctxValid = s.ctxValid := rfl
@[simp] theorem setPlainLen_err : (setPlainLen n s).err = s.err := rfl
@[simp] theorem setPlainLen_devstat : (setPlainLen n s).devstat = s.devstat := rfl
@[simp] theorem setPlainLen_outlen : (setPlainLen n s).outlen = s.outlen := rfl
@[simp] theorem setPlainLen_crcout : (setPlainLen n s).crcout = s.crcout := rfl
@[simp] theorem setPlainLen_ops : (setPlainLen n s).ops = s.ops := rfl
@[simp] theorem setPlainLen_ctx : (setPlainLen n s).ctx = s.ctx := rfl
@[simp] theorem setPlainLen_inbuf : (setPlainLen n s).inbuf = s.inbuf := rfl
@[simp] theorem setPlainLen_outbuf : (setPlainLen n s).outbuf = s.outbuf := rfl
@[simp] theorem setPlainLen_crcreg : (setPlainLen n s).crcreg = s.crcreg := rfl
@[simp] theorem setPlainLen_txbuf : (setPlainLen n s).txbuf = s.txbuf := rfl
@[simp] theorem setPlainLen_txlen : (setPlainLen n s).txlen = s.txlen := rfl
@[simp] theorem setPlainLen_rxbuf : (setPlainLen n s).rxbuf = s.rxbuf := rfl
@[simp] theorem setPlainLen_rxcnt : (setPlainLen n s).rxcnt = s.rxcnt := rfl
@[simp] theorem setPlainLen_attempts : (setPlainLen n s).attempts = s.attempts := rfl
@[simp] theorem setPlainLen_cv : (setPlainLen n s).cv = s.cv := rfl
@[simp] theorem setPlainLen_work : (setPlainLen n s).work = s.work := rfl
@[simp] theorem setPlainLen_worklen : (setPlainLen n s).worklen = s.worklen := rfl
@[simp] theorem setPlainLen_blk : (setPlainLen n s).blk = s.blk := rfl
@[simp] theorem setPlainLen_seq : (setPlainLen n s).seq = s.seq := rfl
@[simp] theorem setPlainLen_cur : (setPlainLen n s).cur = s.cur := rfl
@[simp] theorem setPlainLen_pend : (setPlainLen n s).pend = s.pend := rfl
@[simp] theorem setPlainLen_plainLen : (setPlainLen n s).plainLen = n := rfl
@[simp] theorem setPlainLen_trace : (setPlainLen n s).trace = s.trace := rfl
@[simp] theorem setPlainLen_answers : (setPlainLen n s).answers = s.answers := rfl
@[simp] theorem setPlainLen_era : (setPlainLen n s).era = s.era := rfl
@[simp] theorem setPlainLen_hostq : (setPlainLen n s).hostq = s.hostq := rfl
@[simp] theorem setPlainLen_reads : (setPlainLen n s).reads = s.reads := rfl
end

section
variable (r : HostRead) (s : State)
@[simp] theorem recordRead_cfg : (recordRead r s).cfg = s.cfg := rfl
@[simp] theorem recordRead_busy : (recordRead r s).busy = s.busy := rfl
@[simp] theorem recordRead_done : (recordRead r s).done = s.done := rfl
@[simp] theorem recordRead_errf : (recordRead r s).errf = s.errf := rfl
@[simp] theorem recordRead_ctxValid : (recordRead r s).ctxValid = s.ctxValid := rfl
@[simp] theorem recordRead_err : (recordRead r s).err = s.err := rfl
@[simp] theorem recordRead_devstat : (recordRead r s).devstat = s.devstat := rfl
@[simp] theorem recordRead_outlen : (recordRead r s).outlen = s.outlen := rfl
@[simp] theorem recordRead_crcout : (recordRead r s).crcout = s.crcout := rfl
@[simp] theorem recordRead_ops : (recordRead r s).ops = s.ops := rfl
@[simp] theorem recordRead_ctx : (recordRead r s).ctx = s.ctx := rfl
@[simp] theorem recordRead_inbuf : (recordRead r s).inbuf = s.inbuf := rfl
@[simp] theorem recordRead_outbuf : (recordRead r s).outbuf = s.outbuf := rfl
@[simp] theorem recordRead_crcreg : (recordRead r s).crcreg = s.crcreg := rfl
@[simp] theorem recordRead_txbuf : (recordRead r s).txbuf = s.txbuf := rfl
@[simp] theorem recordRead_txlen : (recordRead r s).txlen = s.txlen := rfl
@[simp] theorem recordRead_rxbuf : (recordRead r s).rxbuf = s.rxbuf := rfl
@[simp] theorem recordRead_rxcnt : (recordRead r s).rxcnt = s.rxcnt := rfl
@[simp] theorem recordRead_attempts : (recordRead r s).attempts = s.attempts := rfl
@[simp] theorem recordRead_cv : (recordRead r s).cv = s.cv := rfl
@[simp] theorem recordRead_work : (recordRead r s).work = s.work := rfl
@[simp] theorem recordRead_worklen : (recordRead r s).worklen = s.worklen := rfl
@[simp] theorem recordRead_blk : (recordRead r s).blk = s.blk := rfl
@[simp] theorem recordRead_seq : (recordRead r s).seq = s.seq := rfl
@[simp] theorem recordRead_cur : (recordRead r s).cur = s.cur := rfl
@[simp] theorem recordRead_pend : (recordRead r s).pend = s.pend := rfl
@[simp] theorem recordRead_plainLen : (recordRead r s).plainLen = s.plainLen := rfl
@[simp] theorem recordRead_trace : (recordRead r s).trace = s.trace := rfl
@[simp] theorem recordRead_answers : (recordRead r s).answers = s.answers := rfl
@[simp] theorem recordRead_era : (recordRead r s).era = s.era := rfl
@[simp] theorem recordRead_hostq : (recordRead r s).hostq = s.hostq := rfl
@[simp] theorem recordRead_reads : (recordRead r s).reads = s.reads ++ [r] := rfl
end

section
variable (q : List HostAction) (s : State)
@[simp] theorem setHostq_cfg : (setHostq q s).cfg = s.cfg := rfl
@[simp] theorem setHostq_busy : (setHostq q s).busy = s.busy := rfl
@[simp] theorem setHostq_done : (setHostq q s).done = s.done := rfl
@[simp] theorem setHostq_errf : (setHostq q s).errf = s.errf := rfl
@[simp] theorem setHostq_ctxValid : (setHostq q s).ctxValid = s.ctxValid := rfl
@[simp] theorem setHostq_err : (setHostq q s).err = s.err := rfl
@[simp] theorem setHostq_devstat : (setHostq q s).devstat = s.devstat := rfl
@[simp] theorem setHostq_outlen : (setHostq q s).outlen = s.outlen := rfl
@[simp] theorem setHostq_crcout : (setHostq q s).crcout = s.crcout := rfl
@[simp] theorem setHostq_ops : (setHostq q s).ops = s.ops := rfl
@[simp] theorem setHostq_ctx : (setHostq q s).ctx = s.ctx := rfl
@[simp] theorem setHostq_inbuf : (setHostq q s).inbuf = s.inbuf := rfl
@[simp] theorem setHostq_outbuf : (setHostq q s).outbuf = s.outbuf := rfl
@[simp] theorem setHostq_crcreg : (setHostq q s).crcreg = s.crcreg := rfl
@[simp] theorem setHostq_txbuf : (setHostq q s).txbuf = s.txbuf := rfl
@[simp] theorem setHostq_txlen : (setHostq q s).txlen = s.txlen := rfl
@[simp] theorem setHostq_rxbuf : (setHostq q s).rxbuf = s.rxbuf := rfl
@[simp] theorem setHostq_rxcnt : (setHostq q s).rxcnt = s.rxcnt := rfl
@[simp] theorem setHostq_attempts : (setHostq q s).attempts = s.attempts := rfl
@[simp] theorem setHostq_cv : (setHostq q s).cv = s.cv := rfl
@[simp] theorem setHostq_work : (setHostq q s).work = s.work := rfl
@[simp] theorem setHostq_worklen : (setHostq q s).worklen = s.worklen := rfl
@[simp] theorem setHostq_blk : (setHostq q s).blk = s.blk := rfl
@[simp] theorem setHostq_seq : (setHostq q s).seq = s.seq := rfl
@[simp] theorem setHostq_cur : (setHostq q s).cur = s.cur := rfl
@[simp] theorem setHostq_pend : (setHostq q s).pend = s.pend := rfl
@[simp] theorem setHostq_plainLen : (setHostq q s).plainLen = s.plainLen := rfl
@[simp] theorem setHostq_trace : (setHostq q s).trace = s.trace := rfl
@[simp] theorem setHostq_answers : (setHostq q s).answers = s.answers := rfl
@[simp] theorem setHostq_era : (setHostq q s).era = s.era := rfl
@[simp] theorem setHostq_hostq : (setHostq q s).hostq = q := rfl
@[simp] theorem setHostq_reads : (setHostq q s).reads = s.reads := rfl
end

section
variable (s : State)
@[simp] theorem finishCommand_cfg : (finishCommand s).cfg = s.cfg := by
  unfold finishCommand; split <;> rfl
@[simp] theorem finishCommand_busy : (finishCommand s).busy = false := by
  unfold finishCommand; split <;> rfl
@[simp] theorem finishCommand_done : (finishCommand s).done = true := by
  unfold finishCommand; split <;> rfl
@[simp] theorem finishCommand_errf : (finishCommand s).errf = s.errf := by
  unfold finishCommand; split <;> rfl
@[simp] theorem finishCommand_ctxValid : (finishCommand s).ctxValid = s.ctxValid := by
  unfold finishCommand; split <;> rfl
@[simp] theorem finishCommand_err : (finishCommand s).err = s.err := by
  unfold finishCommand; split <;> rfl
@[simp] theorem finishCommand_devstat : (finishCommand s).devstat = s.devstat := by
  unfold finishCommand; split <;> rfl
@[simp] theorem finishCommand_outlen : (finishCommand s).outlen = s.outlen := by
  unfold finishCommand; split <;> rfl
@[simp] theorem finishCommand_crcout : (finishCommand s).crcout = s.crcout := by
  unfold finishCommand; split <;> rfl
@[simp] theorem finishCommand_ops : (finishCommand s).ops = s.ops := by
  unfold finishCommand; split <;> rfl
@[simp] theorem finishCommand_ctx : (finishCommand s).ctx = s.ctx := by
  unfold finishCommand; split <;> rfl
@[simp] theorem finishCommand_inbuf : (finishCommand s).inbuf = s.inbuf := by
  unfold finishCommand; split <;> rfl
@[simp] theorem finishCommand_outbuf : (finishCommand s).outbuf = s.outbuf := by
  unfold finishCommand; split <;> rfl
@[simp] theorem finishCommand_crcreg : (finishCommand s).crcreg = s.crcreg := by
  unfold finishCommand; split <;> rfl
@[simp] theorem finishCommand_txbuf : (finishCommand s).txbuf = s.txbuf := by
  unfold finishCommand; split <;> rfl
@[simp] theorem finishCommand_txlen : (finishCommand s).txlen = s.txlen := by
  unfold finishCommand; split <;> rfl
@[simp] theorem finishCommand_rxbuf : (finishCommand s).rxbuf = s.rxbuf := by
  unfold finishCommand; split <;> rfl
@[simp] theorem finishCommand_rxcnt : (finishCommand s).rxcnt = s.rxcnt := by
  unfold finishCommand; split <;> rfl
@[simp] theorem finishCommand_attempts : (finishCommand s).attempts = s.attempts := by
  unfold finishCommand; split <;> rfl
@[simp] theorem finishCommand_cv : (finishCommand s).cv = if usesWork s.cur then 0 else s.cv := by
  unfold finishCommand; split <;> rfl
@[simp] theorem finishCommand_work : (finishCommand s).work = if usesWork s.cur then s.work.writeBytes 0 (rep 0 (s.cfg.bufCap + 16)) else s.work := by
  unfold finishCommand; split <;> rfl
@[simp] theorem finishCommand_worklen : (finishCommand s).worklen = if usesWork s.cur then 0 else s.worklen := by
  unfold finishCommand; split <;> rfl
@[simp] theorem finishCommand_blk : (finishCommand s).blk = s.blk := by
  unfold finishCommand; split <;> rfl
@[simp] theorem finishCommand_seq : (finishCommand s).seq = .sIdle := by
  unfold finishCommand; split <;> rfl
@[simp] theorem finishCommand_cur : (finishCommand s).cur = s.cur := by
  unfold finishCommand; split <;> rfl
@[simp] theorem finishCommand_pend : (finishCommand s).pend = none := by
  unfold finishCommand; split <;> rfl
@[simp] theorem finishCommand_plainLen : (finishCommand s).plainLen = 0 := by
  unfold finishCommand; split <;> rfl
@[simp] theorem finishCommand_trace : (finishCommand s).trace = s.trace := by
  unfold finishCommand; split <;> rfl
@[simp] theorem finishCommand_answers : (finishCommand s).answers = s.answers := by
  unfold finishCommand; split <;> rfl
@[simp] theorem finishCommand_era : (finishCommand s).era = s.era := by
  unfold finishCommand; split <;> rfl
@[simp] theorem finishCommand_hostq : (finishCommand s).hostq = s.hostq := by
  unfold finishCommand; split <;> rfl
@[simp] theorem finishCommand_reads : (finishCommand s).reads = s.reads := by
  unfold finishCommand; split <;> rfl
end

section
variable (e : Err) (s : State)
@[simp] theorem errorCompletion_cfg : (errorCompletion e s).cfg = s.cfg :=
  finishCommand_cfg (writeError e s)
@[simp] theorem errorCompletion_busy : (errorCompletion e s).busy = false :=
  finishCommand_busy (writeError e s)
@[simp] theorem errorCompletion_done : (errorCompletion e s).done = true :=
  finishCommand_done (writeError e s)
@[simp] theorem errorCompletion_errf : (errorCompletion e s).errf = true :=
  finishCommand_errf (writeError e s)
@[simp] theorem errorCompletion_ctxValid : (errorCompletion e s).ctxValid = s.ctxValid :=
  finishCommand_ctxValid (writeError e s)
@[simp] theorem errorCompletion_err : (errorCompletion e s).err = errCode e :=
  finishCommand_err (writeError e s)
@[simp] theorem errorCompletion_devstat : (errorCompletion e s).devstat = errDevstat e :=
  finishCommand_devstat (writeError e s)
@[simp] theorem errorCompletion_outlen : (errorCompletion e s).outlen = 0 :=
  finishCommand_outlen (writeError e s)
@[simp] theorem errorCompletion_crcout : (errorCompletion e s).crcout = 0 :=
  finishCommand_crcout (writeError e s)
@[simp] theorem errorCompletion_ops : (errorCompletion e s).ops = s.ops :=
  finishCommand_ops (writeError e s)
@[simp] theorem errorCompletion_ctx : (errorCompletion e s).ctx = s.ctx :=
  finishCommand_ctx (writeError e s)
@[simp] theorem errorCompletion_inbuf : (errorCompletion e s).inbuf = s.inbuf :=
  finishCommand_inbuf (writeError e s)
@[simp] theorem errorCompletion_outbuf : (errorCompletion e s).outbuf = s.outbuf :=
  finishCommand_outbuf (writeError e s)
@[simp] theorem errorCompletion_crcreg : (errorCompletion e s).crcreg = s.crcreg :=
  finishCommand_crcreg (writeError e s)
@[simp] theorem errorCompletion_txbuf : (errorCompletion e s).txbuf = s.txbuf :=
  finishCommand_txbuf (writeError e s)
@[simp] theorem errorCompletion_txlen : (errorCompletion e s).txlen = s.txlen :=
  finishCommand_txlen (writeError e s)
@[simp] theorem errorCompletion_rxbuf : (errorCompletion e s).rxbuf = s.rxbuf :=
  finishCommand_rxbuf (writeError e s)
@[simp] theorem errorCompletion_rxcnt : (errorCompletion e s).rxcnt = s.rxcnt :=
  finishCommand_rxcnt (writeError e s)
@[simp] theorem errorCompletion_attempts : (errorCompletion e s).attempts = s.attempts :=
  finishCommand_attempts (writeError e s)
@[simp] theorem errorCompletion_cv : (errorCompletion e s).cv = if usesWork s.cur then 0 else s.cv :=
  finishCommand_cv (writeError e s)
@[simp] theorem errorCompletion_work : (errorCompletion e s).work = if usesWork s.cur then s.work.writeBytes 0 (rep 0 (s.cfg.bufCap + 16)) else s.work :=
  finishCommand_work (writeError e s)
@[simp] theorem errorCompletion_worklen : (errorCompletion e s).worklen = if usesWork s.cur then 0 else s.worklen :=
  finishCommand_worklen (writeError e s)
@[simp] theorem errorCompletion_blk : (errorCompletion e s).blk = s.blk :=
  finishCommand_blk (writeError e s)
@[simp] theorem errorCompletion_seq : (errorCompletion e s).seq = .sIdle :=
  finishCommand_seq (writeError e s)
@[simp] theorem errorCompletion_cur : (errorCompletion e s).cur = s.cur :=
  finishCommand_cur (writeError e s)
@[simp] theorem errorCompletion_pend : (errorCompletion e s).pend = none :=
  finishCommand_pend (writeError e s)
@[simp] theorem errorCompletion_plainLen : (errorCompletion e s).plainLen = 0 :=
  finishCommand_plainLen (writeError e s)
@[simp] theorem errorCompletion_trace : (errorCompletion e s).trace = s.trace :=
  finishCommand_trace (writeError e s)
@[simp] theorem errorCompletion_answers : (errorCompletion e s).answers = s.answers :=
  finishCommand_answers (writeError e s)
@[simp] theorem errorCompletion_era : (errorCompletion e s).era = s.era :=
  finishCommand_era (writeError e s)
@[simp] theorem errorCompletion_hostq : (errorCompletion e s).hostq = s.hostq :=
  finishCommand_hostq (writeError e s)
@[simp] theorem errorCompletion_reads : (errorCompletion e s).reads = s.reads :=
  finishCommand_reads (writeError e s)
end

end Sys2Proof.Machine
end

