-- ==== Sys2Proof/Laws/Memory.lean ====
section
/-! SUPPORT. The laws of the byte arrays: what a read gives after a write, and that a write keeps the canonical form and
the array's bounds. -/

namespace Sys2Proof.Machine

/-! ## Reading after a write -/

theorem read_append (m m' : Memory) (a : Nat) :
    Memory.read (m ++ m') a = (m.read a).or (m'.read a) := by
  simp only [Memory.read, List.find?_append]
  cases m.find? (fun c => c.1 == a) <;> simp

theorem read_filter_true (m : Memory) (p : Host.Cell → Bool) (a : Nat) (h : ∀ b, p (a, b) = true) :
    Memory.read (m.filter p) a = m.read a := by
  induction m with
  | nil => rfl
  | cons c m ih =>
    obtain ⟨k, b⟩ := c
    simp only [Memory.read] at ih ⊢
    by_cases hk : k = a
    · subst hk; simp [List.filter, h]
    · cases hp : p (k, b) <;> simp [List.filter, hp, hk] at ih ⊢ <;> simpa using ih

theorem read_filter_false (m : Memory) (p : Host.Cell → Bool) (a : Nat) (h : ∀ b, p (a, b) = false) :
    Memory.read (m.filter p) a = none := by
  simp only [Memory.read, Option.map_eq_none_iff, List.find?_eq_none, List.mem_filter]
  rintro ⟨k, b⟩ ⟨_, hp⟩ hk
  have hka : k = a := by simpa using hk
  subst hka
  simp [h b] at hp

theorem read_cellsFrom (off : Nat) (bs : Bytes) (a : Nat) :
    Memory.read (cellsFrom off bs) a = if off ≤ a ∧ a < off + bs.length then bs[a - off]? else none := by
  induction bs generalizing off with
  | nil => simp [cellsFrom, Memory.read]
  | cons b bs ih =>
    have step : Memory.read (cellsFrom off (b :: bs)) a =
        if off = a then some b else Memory.read (cellsFrom (off + 1) bs) a := by
      by_cases h : off = a <;> simp [cellsFrom, Memory.read, h]
    rw [step, ih]
    by_cases h : off = a
    · subst h; simp
    · by_cases h2 : off + 1 ≤ a ∧ a < off + 1 + bs.length
      · have h3 : off ≤ a ∧ a < off + (b :: bs).length := by simp; omega
        rw [if_neg h, if_pos h2, if_pos h3]
        obtain ⟨k, rfl⟩ : ∃ k, a = off + 1 + k := ⟨a - (off + 1), by omega⟩
        simp [show off + 1 + k - (off + 1) = k by omega, show off + 1 + k - off = k + 1 by omega]
      · have h3 : ¬(off ≤ a ∧ a < off + (b :: bs).length) := by simp; omega
        rw [if_neg h, if_neg h2, if_neg h3]

/-- All that a write does, seen through the read of one byte (R8): inside the range the bytes of the string, every other
offset as before. -/
theorem read_writeBytes (m : Memory) (off : Nat) (bs : Bytes) (a : Nat) :
    (m.writeBytes off bs).read a = if off ≤ a ∧ a < off + bs.length then bs[a - off]? else m.read a := by
  unfold Memory.writeBytes
  rw [read_append, read_append, read_cellsFrom]
  by_cases h : off ≤ a ∧ a < off + bs.length
  · rw [read_filter_false _ _ _ (by intro b; simp; omega), if_pos h, if_pos h,
      read_filter_false _ _ _ (by intro b; simp; omega)]
    simp
  · rw [if_neg h, if_neg h]
    by_cases h1 : a < off
    · rw [read_filter_true _ _ _ (by intro b; simp; omega), read_filter_false _ _ _ (by intro b; simp; omega)]
      simp
    · rw [read_filter_false _ _ _ (by intro b; simp; omega), read_filter_true _ _ _ (by intro b; simp; omega)]
      simp

/-- The bytes read are the string exactly when every offset of the range reads its byte. -/
theorem readBytes_eq_some_iff (m : Memory) (off n : Nat) (bs : Bytes) :
    m.readBytes off n = some bs ↔ bs.length = n ∧ ∀ i, i < n → m.read (off + i) = bs[i]? := by
  induction n generalizing off bs with
  | zero => cases bs <;> simp [Memory.readBytes]
  | succ n ih =>
    simp only [Memory.readBytes, Option.bind_eq_bind, Option.bind_eq_some_iff, Option.pure_def, Option.some.injEq]
    constructor
    · rintro ⟨b, hb, cs, hcs, rfl⟩
      obtain ⟨hl, hr⟩ := (ih _ _).1 hcs
      refine ⟨by simp [hl], ?_⟩
      rintro (_ | i) hi
      · simpa using hb
      · have := hr i (by omega)
        simpa [Nat.add_assoc, Nat.add_comm 1 i] using this
    · rintro ⟨hl, hr⟩
      cases bs with
      | nil => simp at hl
      | cons b cs =>
        refine ⟨b, by simpa using hr 0 (by omega), cs, (ih _ _).2 ⟨by simpa using hl, ?_⟩, rfl⟩
        intro i hi
        have := hr (i + 1) (by omega)
        simpa [Nat.add_assoc, Nat.add_comm 1 i] using this

theorem readBytes_length {m : Memory} {off n : Nat} {bs : Bytes} (h : m.readBytes off n = some bs) : bs.length = n :=
  ((readBytes_eq_some_iff _ _ _ _).1 h).1

/-- A read of what was written gives it back. -/
theorem readBytes_writeBytes (m : Memory) (off : Nat) (bs : Bytes) :
    (m.writeBytes off bs).readBytes off bs.length = some bs := by
  rw [readBytes_eq_some_iff]
  refine ⟨rfl, fun i hi => ?_⟩
  rw [read_writeBytes, if_pos (by omega)]
  simp

/-- A string written directly after what a range reads extends it. -/
theorem readBytes_writeBytes_append {m : Memory} {off : Nat} {got : Bytes} (c : Bytes)
    (h : m.readBytes off got.length = some got) :
    (m.writeBytes (off + got.length) c).readBytes off (got ++ c).length = some (got ++ c) := by
  rw [readBytes_eq_some_iff] at h ⊢
  refine ⟨rfl, fun i hi => ?_⟩
  rw [read_writeBytes]
  simp only [List.length_append] at hi
  by_cases h1 : i < got.length
  · rw [if_neg (by omega), h.2 i h1, List.getElem?_append_left h1]
  · rw [if_pos (by omega), List.getElem?_append_right (by omega)]
    congr 1; omega

/-- A write outside a range does not change what the range reads. -/
theorem readBytes_writeBytes_of_disjoint (m : Memory) {off n k : Nat} {bs : Bytes}
    (h : off + n ≤ k ∨ k + bs.length ≤ off) : (m.writeBytes k bs).readBytes off n = m.readBytes off n := by
  apply Option.ext
  intro cs
  rw [readBytes_eq_some_iff, readBytes_eq_some_iff]
  refine and_congr_right fun _ => forall_congr' fun i => imp_congr_right fun hi => ?_
  rw [read_writeBytes, if_neg (by omega)]

/-! ## The canonical form -/

theorem mem_cellsFrom {off : Nat} {bs : Bytes} {c : Host.Cell} (h : c ∈ cellsFrom off bs) :
    off ≤ c.1 ∧ c.1 < off + bs.length := by
  induction bs generalizing off with
  | nil => simp [cellsFrom] at h
  | cons b bs ih =>
    simp only [cellsFrom, List.mem_cons] at h
    rcases h with rfl | h
    · simp
    · have := ih h
      simp; omega

theorem cellsFrom_wf (off : Nat) (bs : Bytes) : Memory.wf (cellsFrom off bs) := by
  induction bs generalizing off with
  | nil => simp [cellsFrom, Memory.wf]
  | cons b bs ih =>
    simp only [cellsFrom, Memory.wf, List.pairwise_cons]
    exact ⟨fun c hc => by have := mem_cellsFrom hc; omega, ih _⟩

/-- A write keeps the canonical form. -/
theorem writeBytes_wf {m : Memory} (h : m.wf) (off : Nat) (bs : Bytes) : (m.writeBytes off bs).wf := by
  unfold Memory.writeBytes Memory.wf
  rw [List.pairwise_append, List.pairwise_append]
  refine ⟨⟨h.filter _, cellsFrom_wf off bs, ?_⟩, h.filter _, ?_⟩
  · intro a ha b hb
    have h1 := mem_cellsFrom hb
    have h2 := (List.mem_filter.1 ha).2
    simp at h2; omega
  · intro a ha b hb
    have h2 := (List.mem_filter.1 hb).2
    simp at h2
    rcases List.mem_append.1 ha with ha | ha
    · have h3 := (List.mem_filter.1 ha).2
      simp at h3; omega
    · have h3 := mem_cellsFrom ha
      omega

/-- A write inside an array of `cap` bytes lists no offset outside it. -/
theorem writeBytes_within {m : Memory} {cap : Nat} (h : m.within cap) {off : Nat} {bs : Bytes}
    (hfit : off + bs.length ≤ cap) : (m.writeBytes off bs).within cap := by
  intro c hc
  unfold Memory.writeBytes at hc
  rcases List.mem_append.1 hc with hc | hc
  · rcases List.mem_append.1 hc with hc | hc
    · exact h c (List.mem_filter.1 hc).1
    · have := mem_cellsFrom hc
      omega
  · exact h c (List.mem_filter.1 hc).1

end Sys2Proof.Machine
end

