-- ==== Sys2Proof/Laws/Transport.lean ====
section
/-! SUPPORT. What the transport can do, said once: the oracle's answer, the receive loop, the collecting of a response,
the sending of a frame. -/

namespace Sys2Proof.Machine

/-! ## The oracle's answer (R47) -/

theorem busAnswer_length_le (n : Nat) (s : State) : (busAnswer n s).length ≤ n := by
  unfold busAnswer; split <;> simp

/-- A scripted answer that is not longer than the request is given as it is. -/
theorem busAnswer_of_scripted {n : Nat} {s : State} {a : Bytes} {rest : List Bytes} (h : s.answers = a :: rest)
    (hl : a.length ≤ n) : busAnswer n s = a := by
  simp [busAnswer, h, hl]

/-! ## The receive loop (R113) -/

/-- What one chunk request changes. -/
theorem rxRequest_frame (e : Nat) (s : State) : KeepsBesideRx s (rxRequest e s) :=
  ⟨⟨by constructor <;> rfl, rfl, rfl, rfl⟩, rfl, rfl, rfl⟩

/-- What the loop changes: the receive buffer, its two counters, and the record of the bus. -/
theorem rxLoop_frame (e fuel : Nat) (got : Bytes) (s : State) : KeepsBesideRx s (rxLoop e fuel got s).2 := by
  induction fuel generalizing got s with
  | zero => exact .refl s
  | succ fuel ih =>
    unfold rxLoop
    split
    · exact (rxRequest_frame e s).trans (ih _ _)
    · exact .refl s

/-- All that the loop does, from a state whose receive buffer holds `got`: some chunks, at most as many as the budget,
each at most what was asked for; they are appended to the buffer; one event each; and the loop ends early only when all
is there (R115, R116, R121). -/
theorem rxLoop_spec (e fuel : Nat) (got : Bytes) (s : State) (hcnt : s.rxcnt = got.length)
    (hbuf : s.rxbuf.readBytes 0 got.length = some got) :
    ∃ cs : List Bytes, cs.length ≤ fuel ∧ chunksPartial (e - got.length) cs ∧
      (rxLoop e fuel got s).1 = got ++ cs.flatten ∧
      (rxLoop e fuel got s).2.rxcnt = (got ++ cs.flatten).length ∧
      (rxLoop e fuel got s).2.rxbuf.readBytes 0 (got ++ cs.flatten).length = some (got ++ cs.flatten) ∧
      (rxLoop e fuel got s).2.trace = s.trace ++ readEvents (e - got.length) cs ∧
      (rxLoop e fuel got s).2.attempts = s.attempts + cs.length ∧
      ((got ++ cs.flatten).length < e → cs.length = fuel) := by
  induction fuel generalizing got s with
  | zero => exact ⟨[], by simp [rxLoop, chunksPartial, readEvents, hcnt, hbuf]⟩
  | succ fuel ih =>
    unfold rxLoop
    split
    · rename_i hlt
      have hlen := busAnswer_length_le (chunkSize e s.rxcnt) s
      have hbuf' : (rxRequest e s).rxbuf.readBytes 0 (got ++ busAnswer (chunkSize e s.rxcnt) s).length =
          some (got ++ busAnswer (chunkSize e s.rxcnt) s) := by
        have := readBytes_writeBytes_append (busAnswer (chunkSize e s.rxcnt) s) hbuf
        simpa [rxRequest, hcnt] using this
      obtain ⟨cs, h1, h2, h3, h4, h5, h6, h7, h8⟩ :=
        ih (got ++ busAnswer (chunkSize e s.rxcnt) s) (rxRequest e s) (by simp [rxRequest, hcnt]) hbuf'
      have hcs : chunkSize e s.rxcnt = min 32 (e - got.length) := by simp [chunkSize, Param.chunkMax, hcnt]
      have ht : (rxRequest e s).trace =
          s.trace ++ [.read (min 32 (e - got.length)) (busAnswer (chunkSize e s.rxcnt) s)] := by
        rw [← hcs]; rfl
      have ha : (rxRequest e s).attempts = s.attempts + 1 := rfl
      generalize hr : rxRequest e s = u at *
      generalize hc : busAnswer (chunkSize e s.rxcnt) s = c at *
      have hsub : e - (got ++ c).length = e - got.length - c.length := by simp; omega
      refine ⟨c :: cs, by simpa using h1, ⟨by omega, by omega, hsub ▸ h2⟩, by simpa using h3, by simpa using h4,
        by simpa using h5, ?_, ?_, ?_⟩
      · rw [h6, hsub, ht]
        simp [readEvents]
      · rw [h7, ha]
        simp; ring
      · intro h; simpa using h8 (by simpa using h)
    · rename_i hge
      exact ⟨[], by simp, trivial, by simp, by simp [hcnt], by simpa using hbuf, by simp [readEvents], by simp,
        fun h => by simp at h; omega⟩

/-- What a receive changes. -/
theorem collect_frame (e : Nat) (s : State) : KeepsBesideRx s (collect e s).2 := by
  have h0 : KeepsBesideRx s (rxStart s) := ⟨⟨by constructor <;> rfl, rfl, rfl, rfl⟩, rfl, rfl, rfl⟩
  have h1 : ∀ t, KeepsBesideRx t (busIdle t) := fun t => ⟨⟨by constructor <;> rfl, rfl, rfl, rfl⟩, rfl, rfl, rfl⟩
  exact (h0.trans (rxLoop_frame e Param.retryBudget [] (rxStart s))).trans (h1 _)

/-- All that `collect` does: the collected bytes stand in the receive buffer, and the trace of the receive ends with one
idle transition (R113, R118). -/
theorem collect_spec (e : Nat) (s : State) :
    ∃ cs : List Bytes, cs.length ≤ 20 ∧ chunksPartial e cs ∧ (collect e s).1 = cs.flatten ∧
      (collect e s).2.rxcnt = cs.flatten.length ∧
      (collect e s).2.rxbuf.readBytes 0 cs.flatten.length = some cs.flatten ∧
      (collect e s).2.trace = s.trace ++ readEvents e cs ++ [.idle] ∧ (collect e s).2.attempts = cs.length ∧
      (cs.flatten.length < e → cs.length = 20) := by
  obtain ⟨cs, h1, h2, h3, h4, h5, h6, h7, h8⟩ :=
    rxLoop_spec e Param.retryBudget [] (rxStart s) rfl rfl
  exact ⟨cs, h1, by simpa using h2, by simpa [collect] using h3, by simpa [collect] using h4,
    by simpa [collect] using h5, by simp [collect, h6], by simpa [collect] using h7, h8⟩

/-- A parse writes the CRC register only. -/
theorem parseEffect_frame (raw : Bytes) (s : State) : ∃ r, parseEffect raw s = setCrcreg r s := by
  unfold parseEffect
  split
  · exact ⟨_, rfl⟩
  · exact ⟨s.crcreg, rfl⟩

/-- The parse of a receive writes the CRC register only. -/
theorem receiveEffect_frame (e : Nat) (raw : Bytes) (s : State) : ∃ r, receiveEffect e raw s = setCrcreg r s := by
  unfold receiveEffect
  split
  · exact ⟨s.crcreg, rfl⟩
  · exact parseEffect_frame raw s

/-- The classification writes the CRC register only. -/
theorem classifyEffect_frame (raw : Bytes) (s : State) : ∃ r, classifyEffect raw s = setCrcreg r s := by
  unfold classifyEffect
  split
  · exact ⟨_, rfl⟩
  · exact ⟨s.crcreg, rfl⟩

/-! ## Sending a frame -/

/-- All that `send` does (R110): a payload above `MAX_PAYLOAD` fails before any bus event, any other is sent as one frame
right after a wake. -/
theorem send_spec (op p1 : Byte) (p2 : Word16) (payload : Bytes) (s : State) :
    (s.cfg.maxPayload < payload.length ∧ send op p1 p2 payload s = (.error .invalidParameter, s)) ∨
    (payload.length ≤ s.cfg.maxPayload ∧
      send op p1 p2 payload s =
        (.ok (), busWrite (commandFrame s.cfg op p1 p2 payload) (busWake (storeFrame op p1 p2 payload s)))) := by
  unfold send buildCommandFrame
  by_cases h : s.cfg.maxPayload < payload.length
  · exact .inl ⟨h, by simp [h]⟩
  · exact .inr ⟨by omega, by simp [h]⟩

end Sys2Proof.Machine
end

