-- ==== Sys2Proof/Laws/Blocks.lean ====
section
/-! SUPPORT. All that one block does, what the block loops of ENCRYPT and DECRYPT can change, and the length of a block
that comes back. -/

namespace Sys2Proof.Machine

/-! ## One block -/

theorem setCrcreg_frame (r : Word16) (s : State) : KeepsBesideLink s (setCrcreg r s) :=
  ⟨by constructor <;> rfl, rfl, rfl, rfl⟩

theorem storeFrame_frame (op p1 : Byte) (p2 : Word16) (payload : Bytes) (s : State) :
    KeepsBesideLink s (storeFrame op p1 p2 payload s) := by
  unfold storeFrame
  generalize commandFrame s.cfg op p1 p2 payload = f
  generalize crcReg _ = r
  exact ⟨by constructor <;> rfl, rfl, rfl, rfl⟩

/-- The wake, the write and the wait of one block change the bus record only. -/
theorem sendEvents_frame (s : State) (f : Bytes) : KeepsBesideLink s (busExecWait (busWrite f (busWake s))) :=
  ⟨by constructor <;> rfl, rfl, rfl, rfl⟩

/-- What `cryptBlock` changes: the CRC register, the two transport buffers with their counters, and the record of the
bus. -/
theorem cryptBlock_frame (x : Bytes) (slot key : Byte) (dir : Direction) (s : State) :
    KeepsBesideLink s (cryptBlock x slot key dir s).2 := by
  unfold cryptBlock
  split
  · exact .refl s
  · rcases send_spec s.cfg.aesOpcode (modeByte key dir) (slot.setWidth 16) x s with ⟨_, h⟩ | ⟨_, h⟩
    · rw [h]
      exact .refl s
    · rw [h]
      have h0 := ((storeFrame_frame s.cfg.aesOpcode (modeByte key dir) (slot.setWidth 16) x s).trans
        (sendEvents_frame _ (commandFrame s.cfg s.cfg.aesOpcode (modeByte key dir) (slot.setWidth 16) x)))
      simp only
      generalize busExecWait _ = u at *
      have h1 := h0.trans (collect_frame Param.cryptRespLen u).toKeepsBesideLink
      generalize collect Param.cryptRespLen u = q at *
      obtain ⟨r1, he⟩ := receiveEffect_frame Param.cryptRespLen q.1 q.2
      obtain ⟨r2, hk⟩ := classifyEffect_frame q.1 (setCrcreg r1 q.2)
      rw [he, hk]
      split
      · exact h1.trans (setCrcreg_frame _ _)
      · exact (h1.trans (setCrcreg_frame _ _)).trans (setCrcreg_frame _ _)

/-- All that `cryptBlock` does (R130 to R133): it fails before any bus event, on a check or on a payload above
`MAX_PAYLOAD`, or it sends one frame, collects at most 20 chunks and answers what the collected bytes come to. -/
theorem cryptBlock_spec (x : Bytes) (slot key : Byte) (dir : Direction) (s : State) :
    (cryptBlock x slot key dir s = (.error .invalidParameter, s) ∧
      (Param.slotMax < slot.toNat ∨ Param.keyIdxMax < key.toNat ∨ s.cfg.maxPayload < x.length)) ∨
    ((slot.toNat ≤ Param.slotMax ∧ key.toNat ≤ Param.keyIdxMax ∧ x.length ≤ s.cfg.maxPayload) ∧
      ∃ cs : List Bytes, cs.length ≤ 20 ∧ chunksPartial 19 cs ∧ (cs.flatten.length < 19 → cs.length = 20) ∧
        (cryptBlock x slot key dir s).1 =
          (match receiveOutcome s.cfg 19 cs.flatten with
            | .ok p => .ok p
            | .error e => .error (classify s.cfg cs.flatten e)) ∧
        (cryptBlock x slot key dir s).2.trace =
          s.trace ++ [.wake, .write (cryptFrame s.cfg slot key dir x), .execWait] ++ readEvents 19 cs ++ [.idle]) := by
  by_cases hs : Param.slotMax < slot.toNat
  · exact .inl ⟨by simp [cryptBlock, firstError, keyChecks, hs], .inl hs⟩
  by_cases hk : Param.keyIdxMax < key.toNat
  · exact .inl ⟨by simp [cryptBlock, firstError, keyChecks, hs, hk], .inr (.inl hk)⟩
  have hf : firstError (keyChecks slot key) = none := by simp [firstError, keyChecks, hs, hk]
  rcases send_spec s.cfg.aesOpcode (modeByte key dir) (slot.setWidth 16) x s with ⟨hp, h⟩ | ⟨hp, h⟩
  · exact .inl ⟨by simp [cryptBlock, hf, h], .inr (.inr hp)⟩
  · refine .inr ⟨⟨by omega, by omega, hp⟩, ?_⟩
    unfold cryptBlock
    rw [hf, h]
    simp only
    generalize hu : busExecWait _ = u
    have hut : u.trace = s.trace ++ [.wake, .write (cryptFrame s.cfg slot key dir x), .execWait] := by
      subst hu; simp [storeFrame, cryptFrame]
    obtain ⟨cs, h1, h2, h3, -, -, h4, -, h5⟩ := collect_spec Param.cryptRespLen u
    obtain ⟨r1, he⟩ :=
      receiveEffect_frame Param.cryptRespLen (collect Param.cryptRespLen u).1 (collect Param.cryptRespLen u).2
    obtain ⟨r2, hc⟩ :=
      classifyEffect_frame (collect Param.cryptRespLen u).1 (setCrcreg r1 (collect Param.cryptRespLen u).2)
    refine ⟨cs, h1, h2, h5, ?_, ?_⟩
    · rw [he, hc, h3]
      simp only [Param.cryptRespLen]
      cases receiveOutcome s.cfg 19 cs.flatten <;> rfl
    · rw [he, hc, h3]
      rw [hut] at h4
      simp only [Param.cryptRespLen] at *
      cases receiveOutcome s.cfg 19 cs.flatten <;> simp [h4]

/-- A block that comes back has 16 bytes (R135). -/
theorem cryptBlock_length {x : Bytes} {slot key : Byte} {dir : Direction} {s : State} {p : Bytes}
    (h : (cryptBlock x slot key dir s).1 = .ok p) : p.length = 16 := by
  unfold cryptBlock at h
  split at h
  · cases h
  · split at h
    · cases h
    · rename_i t _
      obtain ⟨cs, _, hp, h1, _⟩ := collect_spec Param.cryptRespLen (busExecWait t)
      generalize collect Param.cryptRespLen (busExecWait t) = r at *
      simp only at h
      split at h
      · rename_i q hq
        cases h
        unfold receiveOutcome at hq
        split at hq
        · cases hq
        · rename_i hlen
          have hle : ∀ (n : Nat) (l : List Bytes), chunksPartial n l → l.flatten.length ≤ n := by
            intro n l
            induction l generalizing n with
            | nil => simp
            | cons c l ih =>
              rintro ⟨_, h2, h3⟩
              have := ih _ h3
              simp at this ⊢; omega
          have h3 := parseResponse_length hq
          have h4 := hle _ _ hp
          rw [h1] at h3 hlen
          simp only [Param.cryptRespLen] at *
          omega
      · cases h

/-! ## The block loops -/

theorem encStore_frame (c : Bytes) (s : State) : KeepsBesideLoop s (encStore c s) := by constructor <;> rfl

theorem decStore_frame (c d : Bytes) (s : State) : KeepsBesideLoop s (decStore c d s) := by constructor <;> rfl

/-- What the loop of ENCRYPT changes. -/
theorem encBlocks_frame (bs : List Bytes) (s : State) : KeepsBesideLoop s (encBlocks bs s).2 := by
  induction bs generalizing s with
  | nil => exact .refl s
  | cons x bs ih =>
    have hf := (cryptBlock_frame (encInput x s) s.ctx.slot s.ctx.keyIdx .encrypt s).toKeepsBesideLoop
    unfold encBlocks
    generalize cryptBlock (encInput x s) s.ctx.slot s.ctx.keyIdx .encrypt s = q at *
    obtain ⟨o, t⟩ := q
    cases o with
    | error e => exact hf
    | ok c =>
      have hi := (hf.trans (encStore_frame c t)).trans (ih (encStore c t))
      simp only
      generalize encBlocks bs (encStore c t) = q at *
      obtain ⟨o, u⟩ := q
      cases o <;> exact hi

/-- What the loop of DECRYPT changes: the same as the loop of ENCRYPT. -/
theorem decBlocks_frame (k : Nat) (got : Bytes) (s : State) :
    match decBlocks k got s with
    | .done _ t | .failed _ t => KeepsBesideLoop s t
    | .unwritten => True := by
  induction k generalizing got s with
  | zero => exact KeepsBesideLoop.refl s
  | succ k ih =>
    unfold decBlocks
    cases readInbuf (16 * s.blk) 16 s with
    | none => trivial
    | some c =>
      simp only
      have hf := (cryptBlock_frame c s.ctx.slot s.ctx.keyIdx .decrypt s).toKeepsBesideLoop
      generalize cryptBlock c s.ctx.slot s.ctx.keyIdx .decrypt s = q at *
      obtain ⟨o, u⟩ := q
      cases o with
      | error e => exact hf
      | ok d =>
        simp only
        have hi := ih (got ++ decOutput d u) (decStore c d u)
        have h2 := hf.trans (decStore_frame c d u)
        generalize decBlocks k _ _ = q at *
        cases q with
        | unwritten => trivial
        | done p t => exact h2.trans hi
        | failed p t => exact h2.trans hi

end Sys2Proof.Machine
end

