-- ==== Sys2Proof/Laws/PerInstr.lean ====
section
/-! SUPPORT. The statements made instruction by instruction. -/

/-- R70 and R71, seen from the command: it is well formed, its code is 1 to 10, the code decodes to it, and no other byte
does. -/
def Sys2Proof.Laws.CodeIsItsOwn.Statement (i : Sys2Proof.Instr) : Prop :=
  i.wellFormed = true ∧ 1 ≤ (Sys2Proof.encode i).toNat ∧ (Sys2Proof.encode i).toNat ≤ 10 ∧
    ∀ v : Sys2Proof.Byte, Sys2Proof.decode v = .ok i ↔ v = Sys2Proof.encode i

namespace Sys2Proof.Laws.CodeIsItsOwn

theorem crc16 : Statement .crc16 := by unfold Statement; decide +revert
theorem build : Statement .build := by unfold Statement; decide +revert
theorem parse : Statement .parse := by unfold Statement; decide +revert
theorem send : Statement .send := by unfold Statement; decide +revert
theorem receive : Statement .receive := by unfold Statement; decide +revert
theorem cryptblock : Statement .cryptblock := by unfold Statement; decide +revert
theorem reqsize : Statement .reqsize := by unfold Statement; decide +revert
theorem ctxset : Statement .ctxset := by unfold Statement; decide +revert
theorem encrypt : Statement .encrypt := by unfold Statement; decide +revert
theorem decrypt : Statement .decrypt := by unfold Statement; decide +revert

end Sys2Proof.Laws.CodeIsItsOwn
end

