-- ==== Sys2Proof/Tests/Slice0.lean ====
section
/-! SUPPORT. Tests by evaluation. Expected values are the vectors of spec/95_test_vectors.md (named in each docstring), or the
rules. The theorems named `witness_…` show, for each statement with hypotheses, a state and operands that meet all of them
together, at boundary values, clause by clause. -/

namespace Sys2Proof.Tests

open Sys2Proof.Machine

set_option maxRecDepth 20000

/-! ## The command byte -/

/-- The codes of R70, written out bit by bit. -/
theorem test_decode_words :
    decode 0b00000001#8 = .ok .crc16 ∧ decode 0b00000010#8 = .ok .build ∧ decode 0b00000011#8 = .ok .parse ∧
      decode 0b00000100#8 = .ok .send ∧ decode 0b00000101#8 = .ok .receive ∧ decode 0b00000110#8 = .ok .cryptblock ∧
      decode 0b00000111#8 = .ok .reqsize ∧ decode 0b00001000#8 = .ok .ctxset ∧ decode 0b00001001#8 = .ok .encrypt ∧
      decode 0b00001010#8 = .ok .decrypt := by decide

/-- R71: the reserved codes at both ends of their ranges. -/
theorem test_reserved_codes :
    decode 0x00 = .error (.reservedCode 0x00) ∧ decode 0x0B = .error (.reservedCode 0x0B) ∧
      decode 0xFF = .error (.reservedCode 0xFF) := by decide

/-- No two rows of the table match one byte. -/
theorem test_rows_do_not_overlap :
    codeTable.Pairwise (fun r r' => ∀ v : Byte, ¬(v &&& r.mask = r.pattern ∧ v &&& r'.mask = r'.pattern)) := by decide

theorem test_decodeTableWord :
    decodeTableWord 8 9 = some .encrypt ∧ decodeTableWord 8 11 = none ∧ decodeTableWord 0 1 = none ∧
      decodeTableWord 16 1 = none := by decide

/-! ## WellFormed refuses an ill-formed line for each of its checks -/

theorem test_wf_cmd : HostAction.wellFormed Config.taken (.cmd 0x0A) = true ∧
    HostAction.wellFormed Config.taken (.cmd 0x0B) = false := by decide

theorem test_wf_wr_reserved_register : HostAction.wellFormed Config.taken (.wr 24 0) = false := by decide

theorem test_wf_wr_read_only_register : HostAction.wellFormed Config.taken (.wr 6 0) = false := by decide

theorem test_wf_wr_too_wide : HostAction.wellFormed Config.taken (.wr 12 255) = true ∧
    HostAction.wellFormed Config.taken (.wr 12 256) = false ∧ HostAction.wellFormed Config.taken (.wr 15 2) = false := by
  decide

theorem test_wf_rd : HostAction.wellFormed Config.taken (.rd 23) = true ∧
    HostAction.wellFormed Config.taken (.rd 24) = false := by decide

theorem test_wf_wrIn : HostAction.wellFormed Config.taken (.wrIn 1023 [0]) = true ∧
    HostAction.wellFormed Config.taken (.wrIn 1023 [0, 0]) = false := by decide

theorem test_wf_rdIn : HostAction.wellFormed Config.taken (.rdIn 1024 0) = true ∧
    HostAction.wellFormed Config.taken (.rdIn 1024 1) = false := by decide

theorem test_wf_rdOut : HostAction.wellFormed Config.taken (.rdOut 0 1024) = true ∧
    HostAction.wellFormed Config.taken (.rdOut 0 1025) = false := by decide

/-! ## Small states -/

/-- The smallest `BUF_CAP` (D9). -/
def smallCfg : Config := { Config.taken with bufCap := 272 }

/-- A block after reset with `INLEN`, `OUTCAP` and the first bytes of INBUF set. -/
def small (inlen outcap : Word16) (bytes : Bytes) : State :=
  { State.resetWith smallCfg with
    ops := { OperandRegs.zero with inlen := inlen, outcap := outcap }, inbuf := Memory.writeBytes [] 0 bytes }

/-- The same with a valid context. -/
def withCtx (c : Context) (answers : List Bytes) (s : State) : State :=
  { s with ctx := c, ctxValid := true, answers := answers }

/-- The same with `P_SLOT`, `P_KEYIDX` and scripted answers. -/
def withKey (slot keyIdx : Byte) (answers : List Bytes) (s : State) : State :=
  { s with ops := { s.ops with pSlot := slot, pKeyidx := keyIdx }, answers := answers }

/-- The same with `P_EXPLEN` and scripted answers. -/
def withExplen (n : Word16) (answers : List Bytes) (s : State) : State :=
  { s with ops := { s.ops with pExplen := n }, answers := answers }

/-- The next state, if there is one. -/
def after (o : Host.Outcome State Fault Refusal) : Option State :=
  match o with
  | .next t => some t
  | .fault _ => none
  | .refused _ => none

theorem exists_next {o : Host.Outcome State Fault Refusal} (h : (after o).isSome = true) : ∃ t, o = .next t := by
  cases o with
  | next t => exact ⟨t, rfl⟩
  | fault f => cases h
  | refused r => cases h

/-- `[00 01 .. 0F]`. -/
def block0 : Bytes := [0, 1, 2, 3, 4, 5, 6, 7, 8, 9, 10, 11, 12, 13, 14, 15]

/-- `[FF FE .. F0]`. -/
def blockF : Bytes := [0xFF, 0xFE, 0xFD, 0xFC, 0xFB, 0xFA, 0xF9, 0xF8, 0xF7, 0xF6, 0xF5, 0xF4, 0xF3, 0xF2, 0xF1, 0xF0]

/-- Vector F6. -/
def respF : Bytes := [0x12] ++ blockF ++ [0x43, 0x67]

/-- Vector B2, the answer. -/
def resp0 : Bytes := [0x12] ++ block0 ++ [0x4D, 0x65]

/-- Vector F3. -/
def frameF3 : Bytes := [0x03, 0x16, 0x51, 0x00, 0x05, 0x00] ++ block0 ++ [0x05, 0xF9]

/-- Context K3 of section 7: CBC, PKCS7, slot 2, key index 1, IV `[A0 A1 .. AF]`. -/
def ctxK3 : Context := ⟨1, 1, 2, 1, 0xAFAEADACABAAA9A8A7A6A5A4A3A2A1A0⟩

/-- Context K2: ECB, PKCS7, slot 5, key index 0. -/
def ctxK2 : Context := ⟨0, 1, 5, 0, 0⟩

/-! ## The engines (sections 2 to 6 of the vectors) -/

/-- Vectors C3, C4, C8, C10. -/
theorem test_crc_vectors :
    crc16 [0, 0, 0, 0] = [0, 0] ∧ crc16 [0x01] = [0x03, 0x83] ∧ crc16 [0x04, 0x11] = [0x33, 0x43] ∧
      crcReg [0x31, 0x32, 0x33, 0x34, 0x35, 0x36, 0x37, 0x38, 0x39] = 0xBCDD := by decide

/-- The table entries the spec writes out. -/
theorem test_crc_table : [0x00, 0x01, 0x02, 0x03, 0x08, 0x80, 0xFF].map crcTable =
    [0x0000, 0x8005, 0x800F, 0x000A, 0x8033, 0x8303, 0x0202] := by decide

/-- Vector F2. -/
theorem test_frame_f2 : commandFrame Config.taken 0x47 0x81 0x1234 [0xAA, 0xBB] =
    [0x03, 0x08, 0x47, 0x81, 0x34, 0x12, 0xAA, 0xBB, 0xF2, 0x54] := by decide

/-- Vectors F6, F7, F8, F9. -/
theorem test_parse_vectors :
    parseResponse Config.taken respF = .ok blockF ∧ parseResponse Config.taken (flipBit respF 5 2) = .error .crcMismatch ∧
      parseResponse Config.taken (flipBit respF 0 0) = .error .countMismatch ∧
      parseResponse Config.taken respF.dropLast = .error .countMismatch := by decide

/-- Vector F16. -/
theorem test_mode_byte : modeByte 3 .decrypt = 0xC1 ∧ modeByte 1 .encrypt = 0x40 := by decide

/-- Vectors Z1, Z2, Z3. -/
theorem test_padding :
    requiredOutputSize 255 .pkcs7 = .ok 256 ∧ requiredOutputSize 17 .noPad = .error .invalidInputLength ∧
      pad7 [0x41, 0x42, 0x43, 0x44, 0x45] =
        [0x41, 0x42, 0x43, 0x44, 0x45, 11, 11, 11, 11, 11, 11, 11, 11, 11, 11, 11] ∧
      unpad7 (rep 0x10 16) = .ok [] ∧ unpad7 (rep 0x11 16) = .error .paddingError ∧
      unpad7 (rep 0x11 13 ++ [3, 2, 3]) = .error .paddingError := by decide

/-! ## The commands, one step each -/

/-- Command CRC16 of section 2: `[04 11]` gives 4333. -/
theorem test_crc16 : (after (exec .crc16 (small 2 0 [0x04, 0x11]))).map (fun t => (statusByte t, t.crcout, t.outlen)) =
    some (0x02, 0x4333, 0) := by decide

/-- Section 2: `INLEN = BUF_CAP + 1`. -/
theorem test_crc16_too_long : (after (exec .crc16 (small 273 0 []))).map (fun t => (statusByte t, t.err, t.crcout)) =
    some (0x06, 0x23, 0) := by decide

/-- Command BUILD of section 3: vector F1. -/
theorem test_build : (after (exec .build { small 0 8 [] with ops := { OperandRegs.zero with outcap := 8, pOpcode := 0x1B } })).map
      (fun t => (t.err, t.outlen, t.outbuf.readBytes 0 8)) =
    some (0, 8, some [0x03, 0x06, 0x1B, 0x00, 0x00, 0x00, 0x27, 0x71]) := by decide

/-- Command BUILD with one byte of capacity too few. -/
theorem test_build_too_small : (after (exec .build (small 0 7 []))).map (fun t => (t.err, t.outlen, t.outbuf)) =
    some (0x21, 0, []) := by decide

/-- Command PARSE of section 3. -/
theorem test_parse : (after (exec .parse (small 19 16 respF))).map (fun t => (t.err, t.outlen, t.outbuf.readBytes 0 16)) =
    some (0, 16, some blockF) := by decide

/-- Program P1: a wrong CRC. -/
theorem test_parse_crc : (after (exec .parse (small 4 16 [0x03, 0x01, 0x0C, 0x84]))).map (fun t => (statusByte t, t.err, t.outlen)) =
    some (0x06, 0x03, 0) := by decide

/-- Vector T1. -/
theorem test_send : (after (exec .send { small 0 0 [] with ops := { OperandRegs.zero with pOpcode := 0x1B } })).map
      (fun t => (t.err, t.trace)) =
    some (0, [.wake, .write [0x03, 0x06, 0x1B, 0x00, 0x00, 0x00, 0x27, 0x71]]) := by decide

/-- Vectors T11 and T10: one answer, and nothing asked. -/
theorem test_receive : (after (exec .receive (withExplen 4 [[0x03, 0x01, 0x0C, 0x83]] (small 0 1 [])))).map
      (fun t => (t.err, t.outlen, t.outbuf.readBytes 0 1, t.trace)) =
    some (0, 1, some [0x01], [.read 4 [0x03, 0x01, 0x0C, 0x83], .idle]) := by decide

/-- Vector T4: twenty empty answers. -/
theorem test_receive_timeout : (after (exec .receive (withExplen 19 (List.replicate 20 []) (small 0 16 [])))).map
      (fun t => (t.err, t.trace, t.attempts, t.rxcnt)) =
    some (0x01, List.replicate 20 (.read 19 []) ++ [.idle], 20, 0) := by decide

/-- Vector B1. -/
theorem test_cryptblock : (after (exec .cryptblock (withKey 5 0 [respF] (small 16 16 block0)))).map
      (fun t => (t.err, t.outbuf.readBytes 0 16, t.trace)) =
    some (0, some blockF, [.wake, .write frameF3, .execWait, .read 19 respF, .idle]) := by decide

/-- Vector B5: the status frame, followed by other bytes. -/
theorem test_cryptblock_device_error :
    (after (exec .cryptblock (withKey 5 0 [[0x03, 0x0F, 0x2F, 0x02] ++ rep 0xFF 15] (small 16 16 block0)))).map
      (fun t => (t.err, t.devstat, t.outlen)) = some (0x10, 0x0F, 0) := by decide

/-- Program P3: 5 bytes with PKCS7 (the operand `P_PAD`). -/
theorem test_reqsize :
    (after (exec .reqsize { small 5 0 [] with ops := { OperandRegs.zero with inlen := 5, pPad := 1 } })).map
      (fun t => (t.err, t.outlen)) = some (0, 16) := by decide

/-- Vector Z1: 17 bytes without padding. -/
theorem test_reqsize_unaligned : (after (exec .reqsize (small 17 0 []))).map (fun t => (t.err, t.outlen)) =
    some (0x20, 0) := by decide

/-- R142: without an IV the context holds 16 bytes of 0, whatever `P_IV` holds. -/
theorem test_ctxset :
    (after (exec .ctxset { small 0 0 [] with ops := { OperandRegs.zero with pSlot := 16, pIv := 7 } })).map
      (fun t => (statusByte t, t.ctx)) = some (0x0A, ⟨0, 0, 16, 0, 0⟩) := by decide

/-- Vector M19, from a valid context: the flag is cleared, the context registers stay. -/
theorem test_ctxset_iv_missing :
    (after (exec .ctxset (withCtx ctxK3 [] { small 0 0 [] with ops := { OperandRegs.zero with pMode := 1 } }))).map
      (fun t => (statusByte t, t.err, t.ctx)) = some (0x06, 0x24, ctxK3) := by decide

/-- Vector M6. -/
theorem test_encrypt :
    (after (exec .encrypt (withCtx ctxK3 [[0x12, 0x1E, 0x1C, 0x1E, 0x18, 0x1E, 0x51, 0x52, 0x53, 0x5C, 0x5D, 0x5E, 0x5F,
      0x58, 0x59, 0x5A, 0x5B, 0x19, 0x93]] (small 5 16 [0x41, 0x42, 0x43, 0x44, 0x45])))).map
      (fun t => (t.err, t.outlen, t.outbuf.readBytes 0 16, t.trace.drop 1 |>.take 1)) =
    some (0, 16, some [0x1E, 0x1C, 0x1E, 0x18, 0x1E, 0x51, 0x52, 0x53, 0x5C, 0x5D, 0x5E, 0x5F, 0x58, 0x59, 0x5A, 0x5B],
      [.write [0x03, 0x16, 0x51, 0x40, 0x02, 0x00, 0xE1, 0xE3, 0xE1, 0xE7, 0xE1, 0xAE, 0xAD, 0xAC, 0xA3, 0xA2, 0xA1, 0xA0,
        0xA7, 0xA6, 0xA5, 0xA4, 0x02, 0x28]]) := by decide

/-- Vector M18: the capacity is checked before the slot. -/
theorem test_encrypt_check_order :
    (after (exec .encrypt (withCtx ⟨0, 0, 16, 0, 0⟩ [] (small 16 16 block0)))).map (fun t => t.err) = some 0x23 ∧
      (after (exec .encrypt (withCtx ⟨0, 0, 16, 0, 0⟩ [] (small 16 0 block0)))).map (fun t => t.err) = some 0x21 := by
  decide

/-- Vector M7. -/
theorem test_decrypt :
    (after (exec .decrypt (withCtx ctxK3 [[0x12, 0xE1, 0xE3, 0xE1, 0xE7, 0xE1, 0xAE, 0xAD, 0xAC, 0xA3, 0xA2, 0xA1, 0xA0,
      0xA7, 0xA6, 0xA5, 0xA4, 0x17, 0x91]] (small 16 16
        [0x1E, 0x1C, 0x1E, 0x18, 0x1E, 0x51, 0x52, 0x53, 0x5C, 0x5D, 0x5E, 0x5F, 0x58, 0x59, 0x5A, 0x5B])))).map
      (fun t => (t.err, t.outlen, t.outbuf.readBytes 0 5)) =
    some (0, 5, some [0x41, 0x42, 0x43, 0x44, 0x45]) := by decide

/-- Vector M10: nothing is released, and the last byte of WORK is wiped. -/
theorem test_decrypt_padding :
    (after (exec .decrypt (withCtx ctxK2 [[0x12, 0x11, 0x11, 0x11, 0x11, 0x11, 0x11, 0x11, 0x11, 0x11, 0x11, 0x11, 0x11,
      0x11, 0x03, 0x02, 0x03, 0xD4, 0x57]] (small 16 16 (rep 0xEE 13 ++ [0xFC, 0xFD, 0xFC]))))).map
      (fun t => (statusByte t, t.err, t.outlen, t.outbuf.length, t.work.read 15)) =
    some (0x0E, 0x30, 0, 0, some 0) := by decide

/-! ## The host port and the sequencer -/

/-- R160 to R166: CTXSET, a command without the bus, in the sequencer: `S_VALIDATE`, `S_COMPUTE`, `S_RELEASE`, `S_FINISH`. -/
theorem test_sequencer_path :
    (after (seqRun 3 (startCommand 0x08 (small 0 0 [])))).map (fun t => (t.seq, statusByte t)) = some (.sFinish, 0x09) ∧
      (after (seqRun 4 (startCommand 0x08 (small 0 0 [])))).map (fun t => (t.seq, statusByte t)) = some (.sIdle, 0x0A) := by
  decide

/-- R206: a write while the sequencer runs is ignored. -/
theorem test_write_while_busy :
    (after (step { startCommand 0x04 (small 2 0 []) with hostq := [.wr 4 9] })).map (fun t => t.ops.inlen) = some 2 := by
  decide

/-- R14: the numbers of the map and the widths at both ends. -/
theorem test_register_numbers :
    regOfNumber 0 = some .cmd ∧ regOfNumber 7 = some .crcout ∧ regOfNumber 11 = some .pExplen ∧
      regOfNumber 18 = some .pIv ∧ regOfNumber 23 = some .ctxIv ∧ regOfNumber 24 = none ∧ regOfNumber 255 = none ∧
      regTable.map regWidth =
        [8, 8, 8, 8, 16, 16, 16, 16, 8, 8, 16, 16, 8, 8, 1, 1, 1, 1, 128, 1, 1, 8, 8, 128] := by decide

/-- The first step after reset with a command placed runs it: ENCRYPT without a context (vector M17). -/
theorem test_first_step : (after (step (State.reset.withFetchWord 8 9))).map (fun t => (t.err, t.trace)) = some (0x23, []) := by
  decide

/-! ## Witnesses: states and operands that meet the hypotheses of the statements -/

/-- Another legal configuration: `COUNT_SELF` 1. -/
def selfCfg : Config := { smallCfg with countSelf := true }

/-- What the host wrote first into INBUF reads back, whatever its length. -/
theorem small_readInbuf (inlen outcap : Word16) (bytes : Bytes) {n : Nat} (h : bytes.length = n) :
    readInbuf 0 n (small inlen outcap bytes) = some bytes := by
  subst h; exact readBytes_writeBytes [] 0 bytes

theorem witness_CommandCodesOfTheTable :
    ((0x00 : Byte) = 0x00) ∧ 0x0B ≤ (0x0B : Byte).toNat ∧ 0x0B ≤ (0xFF : Byte).toNat := by decide

theorem witness_CrcIsLinear : ([0x01, 0x80] : Bytes).length = ([0xFF, 0x10] : Bytes).length := by decide

theorem witness_CrcDetectsEverySingleBitFlip :
    1 < ([0x04, 0x11] : Bytes).length ∧ 7 < 8 ∧ flipBit [0x04, 0x11] 1 7 = [0x04, 0x91] := by decide

theorem witness_BuiltFrameLayout :
    smallCfg.Legal ∧ selfCfg.Legal ∧ (rep 0 247).length ≤ smallCfg.maxPayload ∧ (rep 0 0).length ≤ selfCfg.maxPayload := by
  decide

theorem witness_ResponseFrameParsesBack :
    (rep 0xA5 253).length + smallCfg.countSelf.toNat ≤ 253 ∧ (rep 0xA5 252).length + selfCfg.countSelf.toNat ≤ 253 := by
  decide

/-- The clauses of R103: too short, the count wrong, the CRC wrong, right. -/
theorem witness_ParserVerdict :
    ([0x01, 0x00] : Bytes).length < 3 ∧
    (3 ≤ ([0x03, 0x83, 0x81] : Bytes).length ∧ (0x03 : Byte).toNat ≠ 3 - 1 + smallCfg.countSelf.toNat) ∧
    ((0x02 : Byte).toNat = 3 - 1 + smallCfg.countSelf.toNat ∧
      ([0x02, 0x00, 0x00] : Bytes).drop 1 ≠ crc16 ([0x02, 0x00, 0x00].take 1)) ∧
    ([0x02, 0x83, 0x81] : Bytes).drop 1 = crc16 ([0x02, 0x83, 0x81].take 1) := by decide

theorem witness_TamperedResponseIsCrcMismatch :
    parseResponse smallCfg respF = .ok blockF ∧ 1 ≤ 1 ∧ 1 < respF.length ∧ 18 < respF.length ∧ 7 < 8 := by decide

theorem witness_TamperedCountIsCountMismatch : parseResponse smallCfg [0x02, 0x83, 0x81] = .ok [] ∧ 7 < 8 := by decide

theorem witness_ModeByteValues : (3 : Byte).toNat ≤ 3 := by decide

theorem witness_Crc16CommandMeaning :
    smallCfg.bufCap < (small 273 0 []).ops.inlen.toNat ∧
    ((small 272 0 (rep 7 272)).ops.inlen.toNat ≤ smallCfg.bufCap ∧
      readInbuf 0 272 (small 272 0 (rep 7 272)) = some (rep 7 272)) ∧
    readInbuf 0 0 (small 0 0 []) = some [] :=
  ⟨by decide, ⟨by decide, small_readInbuf _ _ _ List.length_replicate⟩, rfl⟩

/-- Its three ways to be too long, its capacity one too small, and the longest payload. -/
theorem witness_BuildCommandMeaning :
    smallCfg.bufCap < (small 273 0 []).ops.inlen.toNat ∧ smallCfg.bufCap < (small 0 273 []).ops.outcap.toNat ∧
    smallCfg.maxPayload < (small 248 0 []).ops.inlen.toNat ∧
    (247 ≤ smallCfg.bufCap ∧ 254 ≤ smallCfg.bufCap ∧ 247 ≤ smallCfg.maxPayload ∧
      (small 247 254 []).ops.outcap.toNat < 8 + (small 247 254 []).ops.inlen.toNat) ∧
    (8 + (small 247 255 []).ops.inlen.toNat ≤ (small 247 255 []).ops.outcap.toNat ∧
      readInbuf 0 247 (small 247 255 (rep 0 247)) = some (rep 0 247)) :=
  ⟨by decide, by decide, by decide, by decide, by decide, small_readInbuf _ _ _ List.length_replicate⟩

theorem witness_ParseCommandMeaning :
    smallCfg.rxCap < (small 257 0 []).ops.inlen.toNat ∧ smallCfg.bufCap < (small 0 273 []).ops.outcap.toNat ∧
    (3 ≤ (small 4 0 []).ops.inlen.toNat ∧ (small 4 0 []).ops.outcap.toNat < (small 4 0 []).ops.inlen.toNat - 3) ∧
    (19 ≤ smallCfg.rxCap ∧ 16 ≤ smallCfg.bufCap ∧ 19 ≤ 16 + 3 ∧ readInbuf 0 19 (small 19 16 respF) = some respF ∧
      parseResponse smallCfg respF = .ok blockF) ∧
    (readInbuf 0 0 (small 0 0 []) = some [] ∧ parseResponse smallCfg [] = .error .countMismatch) :=
  ⟨by decide, by decide, by decide, ⟨by decide, by decide, by decide, small_readInbuf _ _ _ rfl, by decide⟩, rfl, by decide⟩

theorem witness_ReqsizeCommandMeaning :
    smallCfg.bufCap < (small 273 0 []).ops.inlen.toNat ∧
    ((small 17 0 []).ops.inlen.toNat ≤ smallCfg.bufCap ∧ (small 17 0 []).ops.pPad = 0 ∧
      (small 17 0 []).ops.inlen.toNat % 16 ≠ 0) ∧
    ((small 272 0 []).ops.inlen.toNat ≤ smallCfg.bufCap ∧ smallCfg.bufCap ≤ 65504 ∧
      ((small 272 0 []).ops.pPad = 0 → (small 272 0 []).ops.inlen.toNat % 16 = 0)) := by decide

/-- The operands of CTXSET: CBC without an IV, ECB without one, CBC with one. -/
theorem witness_CtxsetCommandMeaning :
    (({ OperandRegs.zero with pMode := 1 } : OperandRegs).pMode = 1 ∧
      ({ OperandRegs.zero with pMode := 1 } : OperandRegs).pIvpresent = 0) ∧
    (small 0 0 []).ops.pMode = 0 ∧
    ({ OperandRegs.zero with pMode := 1, pIvpresent := 1 } : OperandRegs).pIvpresent = 1 := by decide

theorem witness_SendCommandMeaning :
    smallCfg.bufCap < (small 273 0 []).ops.inlen.toNat ∧ smallCfg.maxPayload < (small 248 0 []).ops.inlen.toNat ∧
    (247 ≤ smallCfg.bufCap ∧ 247 ≤ smallCfg.maxPayload ∧
      readInbuf 0 247 (small 247 0 (rep 0 247)) = some (rep 0 247)) :=
  ⟨by decide, by decide, by decide, by decide, small_readInbuf _ _ _ List.length_replicate⟩

theorem witness_SilentBusTimesOutAfterTwentyRequests :
    0 < 19 ∧ (withExplen 19 (List.replicate 20 []) (small 0 16 [])).answers = List.replicate 20 [] ++ [] := by decide

/-- Four chunks, one of them empty, for a 4-byte response. -/
def splitAnswers : List Bytes := [[0x03], [0x01, 0x0C], [], [0x83]]

theorem witness_ReceiveReleasesPayloadForAnyChunking :
    (4 ≤ smallCfg.rxCap ∧ 1 ≤ smallCfg.bufCap ∧ 4 ≤ 1 + 3 ∧ ([0x01] : Bytes).length + smallCfg.countSelf.toNat ≤ 253) ∧
      splitAnswers.length ≤ 20 ∧ chunksFit 4 splitAnswers ∧ splitAnswers.flatten = respFrame smallCfg [0x01] ∧
      (withExplen 4 splitAnswers (small 0 1 [])).answers = splitAnswers ++ [] := by
  refine ⟨by decide, by decide, ?_, by decide, by decide⟩
  simp [chunksFit, splitAnswers]

/-- The second clause: nothing asked for (vector T10), 20 requests with one byte missing (vector T6), 4 bytes that are no
response (each of the parser's errors), and 4 bytes that are one. -/
theorem witness_ReceiveReportsWhatTheBytesComeTo :
    (0 ≤ smallCfg.rxCap ∧ 0 ≤ 0 + 3 ∧ chunksPartial 0 [] ∧ (withExplen 0 [] (small 0 0 [])).ops.pExplen = 0) ∧
    ([[0x03, 0x01, 0x0C]] ++ List.replicate 19 ([] : Bytes)).length = 20 ∧
    chunksPartial 4 ([[0x03, 0x01, 0x0C]] ++ List.replicate 19 []) ∧
    ([[0x03, 0x01, 0x0C]] ++ List.replicate 19 ([] : Bytes)).flatten.length < 4 ∧
    chunksPartial 4 splitAnswers ∧ splitAnswers.flatten.length = 4 ∧ (4 : Word16) ≠ 0 ∧
    parseResponse smallCfg splitAnswers.flatten = .ok [0x01] ∧
    chunksPartial 4 [[0x03, 0x01, 0x0C, 0x84]] ∧
    parseResponse smallCfg [0x03, 0x01, 0x0C, 0x84] = .error .crcMismatch ∧
    parseResponse smallCfg [0x02, 0x01, 0x0C, 0x83] = .error .countMismatch := by
  refine ⟨⟨by decide, by decide, trivial, by decide⟩, by decide, ?_, by decide, ?_, by decide, by decide, by decide, ?_,
    by decide, by decide⟩ <;> simp [chunksPartial, splitAnswers, List.replicate]

theorem witness_CryptblockReleasesTheDevicesBlock :
    let s := withKey 15 3 [respF] (small 16 16 block0)
    s.cfg.Legal ∧ s.ops.inlen = 16 ∧ 16 ≤ s.ops.outcap.toNat ∧ s.ops.outcap.toNat ≤ s.cfg.bufCap ∧
      s.ops.pSlot.toNat ≤ 15 ∧ s.ops.pKeyidx.toNat ≤ 3 ∧ readInbuf 0 16 s = some block0 ∧ blockF.length = 16 ∧
      [respF].length ≤ 20 ∧ chunksFit 19 [respF] ∧ [respF].flatten = respFrame s.cfg blockF ∧ s.answers = [respF] ++ [] := by
  refine ⟨by decide, by decide, by decide, by decide, by decide, by decide, by decide, by decide, by decide, ?_, by decide,
    by decide⟩
  exact ⟨by decide, by decide, rfl⟩

/-- Both clauses: status `0F` and status 0 (vectors B4, B6). -/
theorem witness_StatusFrameBecomesDeviceError :
    (∀ status : Byte, status = 0x0F ∨ status = 0 →
      let s := withKey 15 3 (respFrame smallCfg [status] :: (List.replicate 19 [] ++ [])) (small 16 16 block0)
      s.cfg.Legal ∧ s.ops.inlen = 16 ∧ 16 ≤ s.ops.outcap.toNat ∧ s.ops.outcap.toNat ≤ s.cfg.bufCap ∧
        s.ops.pSlot.toNat ≤ 15 ∧ s.ops.pKeyidx.toNat ≤ 3 ∧ readInbuf 0 16 s = some block0 ∧
        s.answers = respFrame s.cfg [status] :: (List.replicate 19 [] ++ [])) ∧ (0x0F : Byte) ≠ 0 :=
  ⟨by rintro status (rfl | rfl) <;> decide, by decide⟩

/-- A block that comes back in one chunk. -/
theorem answersBlock_one {c : Bytes} (h : c.length = 16) : AnswersBlock smallCfg [respFrame smallCfg c] c := by
  have hl : (respFrame smallCfg c).length = 19 := by simp [respFrame, crc16, bytesOfWord, h]
  exact ⟨h, by simp, ⟨by decide, by simp [hl], by simp [chunksFit, hl]⟩, by simp⟩

/-- The four ways of a block to fail: silence; a wrong count; a wrong CRC; a status frame padded to 19 bytes (vector B5). -/
theorem fails_block :
    FailsBlock smallCfg (List.replicate 20 []) .timeout ∧ FailsBlock smallCfg [rep 0 19] .countMismatch ∧
      FailsBlock smallCfg [flipBit respF 18 7] .crcMismatch ∧
      FailsBlock smallCfg [[0x03, 0x0F, 0x2F, 0x02] ++ rep 0xFF 15] (.deviceError 0x0F) := by
  refine ⟨⟨by decide, by simp [chunksPartial, List.replicate], by decide, _, .inl ⟨by decide, rfl⟩, .inr ⟨by decide, rfl⟩⟩,
    ⟨by decide, ⟨by decide, by decide, trivial⟩, by decide, _, .inr ⟨by decide, (by decide : _ = Except.error .countMismatch)⟩,
      .inr ⟨by decide, rfl⟩⟩,
    ⟨by decide, ⟨by decide, by decide, trivial⟩, by decide, _, .inr ⟨by decide, (by decide : _ = Except.error .crcMismatch)⟩,
      .inr ⟨by decide, rfl⟩⟩,
    ⟨by decide, ⟨by decide, by decide, trivial⟩, by decide, _, .inr ⟨by decide, (by decide : _ = Except.error .countMismatch)⟩,
      .inl ⟨by decide, by decide⟩⟩⟩

/-- The second clause: the operands of the first clause's witness with a block that fails. -/
theorem witness_StatusFrame_failing_block :
    FailsBlock smallCfg (List.replicate 20 []) .timeout ∧
      (withKey 15 3 (List.replicate 20 []) (small 16 16 block0)).answers = List.replicate 20 [] ++ [] ∧
      readInbuf 0 16 (withKey 15 3 (List.replicate 20 []) (small 16 16 block0)) = some block0 :=
  ⟨fails_block.1, by decide, by decide⟩

theorem witness_OutputSizePolicy : 16 % 16 = 0 ∧ 17 % 16 ≠ 0 := by decide

theorem witness_PaddingFillsTheLastBlock : block0.length % 16 = 0 := by decide

theorem witness_UnpadAcceptsExactlyPaddedBuffers :
    (rep 0x10 16).length % 16 = 0 ∧ unpad7 (rep 0x10 16) = .ok [] ∧ ([] : Bytes).length % 16 = 0 ∧
      unpad7 [] = .error .paddingError := by decide

/-- One block (vector M6), which comes back, or fails as the first; and no block at all (vector M15). -/
theorem witness_EncryptChainsTheDevicesBlocks :
    (∀ ch : List Bytes, ch = [respFrame smallCfg blockF] ∨ ch = List.replicate 20 [] →
      let s := withCtx ctxK3 ch (small 5 16 [0x41, 0x42, 0x43, 0x44, 0x45])
      s.cfg.Legal ∧ s.ctxValid = true ∧ s.ops.inlen.toNat ≤ s.cfg.bufCap ∧ s.ops.outcap.toNat ≤ s.cfg.bufCap ∧
        requiredOutputSize s.ops.inlen.toNat (paddingOfBit s.ctx.pad) = .ok 16 ∧ 16 ≤ s.ops.outcap.toNat ∧
        s.ctx.slot.toNat ≤ 15 ∧ s.ctx.keyIdx.toNat ≤ 3 ∧
        readInbuf 0 s.ops.inlen.toNat s = some [0x41, 0x42, 0x43, 0x44, 0x45] ∧ s.answers = ch) ∧
    List.Forall₂ (AnswersBlock smallCfg) [[respFrame smallCfg blockF]] [blockF] ∧ [blockF].length = 16 / 16 ∧
    [respFrame smallCfg blockF] = [[respFrame smallCfg blockF]].flatten ++ [] ∧
    List.Forall₂ (AnswersBlock smallCfg) [] [] ∧ ([] : List Bytes).length < 16 / 16 ∧
    FailsBlock smallCfg (List.replicate 20 []) .timeout ∧
    List.replicate 20 ([] : Bytes) = ([] : List (List Bytes)).flatten ++ List.replicate 20 [] ++ [] ∧
    (let s := withCtx ⟨0, 0, 15, 3, 0⟩ [] (small 0 0 []);
      requiredOutputSize s.ops.inlen.toNat (paddingOfBit s.ctx.pad) = .ok 0 ∧ s.ctx.slot.toNat ≤ 15 ∧
        s.ctx.keyIdx.toNat ≤ 3 ∧ readInbuf 0 s.ops.inlen.toNat s = some []) :=
  ⟨by rintro ch (rfl | rfl) <;> decide,
    .cons (answersBlock_one rfl) .nil, by decide, by decide, .nil, by decide, fails_block.1, by decide, by decide⟩

/-- Two blocks of which the first comes back and the second fails: the clause of the abort past the first block. -/
theorem witness_DecryptChains_abort :
    let s := withCtx ctxK2 ([respFrame smallCfg blockF] ++ List.replicate 20 []) (small 32 32 (block0 ++ block0))
    s.cfg.Legal ∧ s.ctxValid = true ∧ s.ops.inlen.toNat ≤ s.ops.outcap.toNat ∧ s.ops.outcap.toNat ≤ s.cfg.bufCap ∧
      s.ops.inlen.toNat % 16 = 0 ∧ s.ctx.slot.toNat ≤ 15 ∧ s.ctx.keyIdx.toNat ≤ 3 ∧
      readInbuf 0 s.ops.inlen.toNat s = some (block0 ++ block0) ∧
      List.Forall₂ (AnswersBlock s.cfg) [[respFrame smallCfg blockF]] [blockF] ∧
      [blockF].length < s.ops.inlen.toNat / 16 ∧ FailsBlock s.cfg (List.replicate 20 []) .timeout ∧
      s.answers = [[respFrame smallCfg blockF]].flatten ++ List.replicate 20 [] ++ [] :=
  ⟨by decide, by decide, by decide, by decide, by decide, by decide, by decide, by decide,
    .cons (answersBlock_one rfl) .nil, by decide, fails_block.1, by decide⟩

/-- The plaintext clause (padding that is right) and the error clause (vector M9, padding that is not). -/
theorem witness_DecryptChainsTheDevicesBlocks :
    ∀ d : Bytes, d = rep 0x10 16 ∨ d = rep 0x11 16 →
    let s := withCtx ctxK2 [respFrame smallCfg d] (small 16 16 block0)
    (s.cfg.Legal ∧ s.ctxValid = true ∧ s.ops.inlen.toNat ≤ s.ops.outcap.toNat ∧ s.ops.outcap.toNat ≤ s.cfg.bufCap ∧
      s.ops.inlen.toNat % 16 = 0 ∧ s.ctx.slot.toNat ≤ 15 ∧ s.ctx.keyIdx.toNat ≤ 3 ∧
      readInbuf 0 s.ops.inlen.toNat s = some block0 ∧ [d].length = s.ops.inlen.toNat / 16 ∧
      s.answers = [[respFrame s.cfg d]].flatten ++ [] ∧
      (plainBlocks (modeOfBit s.ctx.mode) (bytesOfIv s.ctx.iv) (blocksOf 1 block0) [d]).flatten = d ∧
      unpad7 d = (if d = rep 0x10 16 then .ok [] else .error .paddingError)) ∧
    List.Forall₂ (AnswersBlock s.cfg) [[respFrame s.cfg d]] [d] := by
  rintro d (rfl | rfl)
  · exact ⟨by decide, .cons (answersBlock_one rfl) .nil⟩
  · exact ⟨by decide, .cons (answersBlock_one rfl) .nil⟩

/-- The stub primitive of the source: exclusive or with `FF`. -/
def stub (x : Bytes) : Bytes := x.map (fun b => b ^^^ 0xFF)

theorem stub_inverts (x : Bytes) (h : x.length = 16) : (stub x).length = 16 ∧ stub (stub x) = x := by
  refine ⟨by simp [stub, h], ?_⟩
  simp [stub, Function.comp_def]

/-- Vector M6, the ciphertext. -/
def cipherM6 : Bytes :=
  [0x1E, 0x1C, 0x1E, 0x18, 0x1E, 0x51, 0x52, 0x53, 0x5C, 0x5D, 0x5E, 0x5F, 0x58, 0x59, 0x5A, 0x5B]

/-- The first half: ENCRYPT of 5 bytes under K3 with the stub. -/
theorem witness_DecryptInvertsEncrypt :
    let s := withCtx ctxK3 [respFrame smallCfg cipherM6] (small 5 16 [0x41, 0x42, 0x43, 0x44, 0x45])
    s.cfg.Legal ∧ s.ctxValid = true ∧ s.ops.inlen.toNat ≤ s.cfg.bufCap ∧ s.ops.outcap.toNat ≤ s.cfg.bufCap ∧
      requiredOutputSize s.ops.inlen.toNat (paddingOfBit s.ctx.pad) = .ok 16 ∧ 16 ≤ s.ops.outcap.toNat ∧
      s.ctx.slot.toNat ≤ 15 ∧ s.ctx.keyIdx.toNat ≤ 3 ∧
      readInbuf 0 s.ops.inlen.toNat s = some [0x41, 0x42, 0x43, 0x44, 0x45] ∧
      s.answers =
        (encChain stub (modeOfBit s.ctx.mode) (bytesOfIv s.ctx.iv)
          (blocksOf (16 / 16) (if s.ctx.pad = 0 then [0x41, 0x42, 0x43, 0x44, 0x45]
            else pad7 [0x41, 0x42, 0x43, 0x44, 0x45]))).map (respFrame s.cfg) := by decide

/-- The second half: DECRYPT of what that ENCRYPT released. -/
theorem witness_DecryptInvertsEncrypt_decrypt :
    let s := withCtx ctxK3 [respFrame smallCfg cipherM6] (small 5 16 [0x41, 0x42, 0x43, 0x44, 0x45])
    let s' := withCtx ctxK3 ((blocksOf (16 / 16) cipherM6).map (fun c => respFrame smallCfg (stub c))) (small 16 16 cipherM6)
    (after (exec .encrypt s)).map (fun t => (t.outlen, t.outbuf.readBytes 0 16)) = some (s'.ops.inlen, some cipherM6) ∧
      s'.cfg = s.cfg ∧ s'.ctx = s.ctx ∧ s'.ctxValid = true ∧ 16 ≤ s'.ops.outcap.toNat ∧
      s'.ops.outcap.toNat ≤ s.cfg.bufCap ∧ readInbuf 0 16 s' = some cipherM6 ∧
      s'.answers = (blocksOf (16 / 16) cipherM6).map (fun c => respFrame s.cfg (stub c)) := by decide

theorem witness_CipherCommandsWipeTheirScratch :
    (∃ t, exec .encrypt (small 0 0 []) = .next t) ∧ ∃ t, exec .decrypt (withCtx ctxK2 [] (small 0 0 [])) = .next t :=
  ⟨exists_next (by decide), exists_next (by decide)⟩

theorem witness_ValidationErrorsStayLocal :
    validate .encrypt (small 0 0 []) = some .invalidParameter ∧ validate .send (small 248 0 []) = some .invalidParameter ∧
      validate .ctxset { small 0 0 [] with ops := { OperandRegs.zero with pMode := 1 } } = some .ivMissing := by decide

/-- For the statements about every `t` with `exec i s = .next t`: an error, a success, the two of CTXSET. -/
theorem witness_exec_next :
    (∃ t, exec .reqsize (small 17 0 []) = .next t) ∧ (∃ t, exec .build (small 0 8 []) = .next t) ∧
      (∃ t, exec .ctxset (small 0 0 []) = .next t) ∧
      ∃ t, exec .ctxset { small 0 0 [] with ops := { OperandRegs.zero with pMode := 1 } } = .next t ∧ t.errf = true :=
  ⟨exists_next (by decide), exists_next (by decide), exists_next (by decide), _, rfl, rfl⟩

theorem witness_BusEventsAreBounded :
    (small 0 8 []).cfg.Legal ∧ ∃ t, exec .send (small 0 8 []) = .next t := ⟨by decide, exists_next (by decide)⟩

theorem witness_HiddenStateNeverLeaks :
    AgreeOnPersistent (small 0 8 []) { small 0 8 [] with crcreg := 9, cv := 7, rxcnt := 3, err := 0x20 } ∧
      ∃ t, exec .send (small 0 8 []) = .next t := ⟨by decide, exists_next (by decide)⟩

theorem witness_UnwrittenInputIsRefused :
    ∀ i ∈ [Instr.crc16, .build, .parse, .send, .encrypt],
      validate i (withCtx ctxK2 [] (small 16 32 [0])) = none ∧ readInbuf 0 16 (withCtx ctxK2 [] (small 16 32 [0])) = none := by
  decide

/-- CRYPTBLOCK with 15 bytes written; DECRYPT with the first block written and answered and the second not. -/
theorem witness_UnwrittenInput_blocks :
    (validate .cryptblock (small 16 16 (rep 0 15)) = none ∧ readInbuf 0 16 (small 16 16 (rep 0 15)) = none) ∧
    (let s := withCtx ctxK2 [respFrame smallCfg blockF] (small 32 32 block0);
      s.cfg.Legal ∧ validate .decrypt s = none ∧ List.Forall₂ (AnswersBlock s.cfg) [[respFrame smallCfg blockF]] [blockF] ∧
        s.answers = [[respFrame smallCfg blockF]].flatten ++ [] ∧ [blockF].length < s.ops.inlen.toNat / 16 ∧
        (readInbuf 0 (16 * [blockF].length) s).isSome = true ∧ readInbuf (16 * [blockF].length) 16 s = none) :=
  ⟨by decide, by decide, by decide, .cons (answersBlock_one rfl) .nil, by decide, by decide, by decide, by decide⟩

theorem witness_EveryCommandCompletes : ∃ data, readInbuf 0 (small 1 0 [7]).ops.inlen.toNat (small 1 0 [7]) = some data :=
  ⟨[7], by decide⟩

theorem witness_StepRunsTheCommandWritten :
    let s := { small 0 0 [] with hostq := [.cmd 0x0A, .tick] }
    s.hostq = .cmd 0x0A :: [.tick] ∧ s.busy = false ∧ decode 0x0A = .ok .decrypt ∧
      ({ startCommand 1 (small 0 0 []) with hostq := [.wait] }).busy = true ∧ (small 0 0 []).hostq = [] ∧
      ({ small 0 0 [] with hostq := [.wr 0 9] }).hostq = .wr 0 9 :: [] ∧ ({ small 0 0 [] with hostq := [.wr 0 9] }).busy = false := by
  decide

theorem witness_ReservedCodeOnlyReportsAnError :
    let s := { small 0 0 [] with hostq := [.cmd 0x0B] }
    s.hostq = .cmd 0x0B :: [] ∧ s.busy = false ∧ 0x0B ≤ (0x0B : Byte).toNat := by decide

theorem witness_HostWritesAreIgnoredWhileBusy :
    (startCommand 1 (small 0 0 [])).busy = true ∧
      ({ startCommand 1 (small 0 0 []) with hostq := [.wr 0 2] }).hostq = .wr 0 2 :: [] ∧
      ({ startCommand 1 (small 0 0 []) with hostq := [.cmd 2] }).hostq = .cmd 2 :: [] ∧
      ({ startCommand 1 (small 0 0 []) with hostq := [.wrIn 271 [1]] }).hostq = .wrIn 271 [1] :: [] ∧
      271 + ([1] : Bytes).length ≤ smallCfg.bufCap ∧
      ({ startCommand 1 (small 0 0 []) with hostq := [.rdOut 0 1] }).hostq = .rdOut 0 1 :: [] ∧ 0 + 1 ≤ smallCfg.bufCap ∧
      0 < 1 := by decide

theorem witness_RegisterMapReads : (small 0 0 []).busy = false ∧ 24 ≤ (24 : Byte).toNat := by decide

theorem witness_RegisterReadsBackWhatWasWritten :
    let s := { small 0 0 [] with hostq := [.wr 17 3] }
    s.hostq = .wr 17 3 :: [] ∧ s.busy = false ∧ regOfNumber 17 = some .pIvpresent ∧ Reg.pIvpresent ≠ .cmd ∧
      regHostWrites .pIvpresent = true := by decide

/-- The last byte of INBUF: written, read back, read before it was written, and the byte after it, which does not exist. -/
theorem witness_InbufAccesses :
    (({ small 0 0 [] with hostq := [.wrIn 271 [9]] }).hostq = .wrIn 271 [9] :: [] ∧
      271 + ([9] : Bytes).length ≤ smallCfg.bufCap) ∧
    (271 + 1 ≤ smallCfg.bufCap ∧ ([9] : Bytes).length = 1 ∧
      ∀ k, k < 1 → ({ small 0 0 [] with inbuf := [(271, 9)] }).inbuf.read (271 + k) = ([9] : Bytes)[k]?) ∧
    (∃ k, k < 1 ∧ (small 0 0 []).inbuf.read (271 + k) = none) ∧
    (smallCfg.bufCap < 271 + ([9, 9] : Bytes).length ∧ smallCfg.bufCap < 272 + 1) :=
  ⟨by decide, ⟨by decide, by decide, by decide⟩, ⟨0, by decide⟩, by decide⟩

theorem witness_UnwritableRegistersAreInert :
    ({ small 0 0 [] with hostq := [.wr 2 1] }).hostq = .wr 2 1 :: [] ∧
      (∀ r, regOfNumber 2 = some r → regHostWrites r = false) ∧ 24 ≤ (24 : Byte).toNat := by
  refine ⟨by decide, ?_, by decide⟩
  intro r h
  cases h; rfl

/-- Inside the defined part, one byte past it, an empty read above it; and a command that defines bytes. -/
theorem witness_OutbufReadsStayInTheDefinedPart :
    (let s := { small 0 8 [] with
        done := true, cur := 0x02, outlen := 2, outbuf := [(0, 5), (1, 6)], hostq := [.rdOut 0 2] };
      s.hostq = .rdOut 0 2 :: [] ∧ 0 + 2 ≤ s.cfg.bufCap ∧ s.done = true ∧ s.busy = false ∧ s.errf = false ∧ s.cur = 0x02 ∧
        0 + 2 ≤ s.outlen.toNat ∧ s.outbuf.readBytes 0 2 = some [5, 6] ∧ s.outlen.toNat < 0 + 3 ∧ 0 + 3 ≤ s.cfg.bufCap) ∧
    0 < 3 ∧ 272 + 0 ≤ smallCfg.bufCap ∧ ∃ t, exec .build (small 0 8 []) = .next t ∧ t.errf = false :=
  ⟨by decide, by decide, by decide, _, rfl, rfl⟩

/-- An empty read of OUTBUF above the defined part reads nothing (log entry 22). -/
theorem test_empty_outbuf_read :
    (after (step { small 0 0 [] with hostq := [.rdOut 272 0] })).map (fun t => t.reads) = some [.outbuf 272 []] := by decide

theorem witness_ResetAbandonsARunningCommand :
    ({ startCommand 9 (small 0 0 []) with hostq := [.rst] }).hostq = .rst :: [] := by decide

/-- For the invariants every step keeps: a block that has just started SEND meets them, and the step goes on. -/
theorem witness_StepKeeps :
    (startCommand 4 (small 0 0 [])).FlagsAgree ∧ (startCommand 4 (small 0 0 [7])).MemoryCanonical ∧
      (∃ t, Sys2Proof.Machine.step (startCommand 4 (small 0 0 [7])) = .next t) ∧
      (startCommand 4 (small 0 0 [])).WakesFirst := by
  refine ⟨?_, by decide, exists_next (by decide), ?_⟩
  · refine ⟨by decide, by decide, by decide, by decide, by decide, ?_⟩
    intro b h; cases h
  · exact ⟨trivial, by decide⟩

theorem witness_CommandsStayWithinCapacities :
    (small 2 0 [1, 2]).cfg.Legal ∧ (small 2 0 [1, 2]).WithinCapacities ∧ ∃ t, exec .crc16 (small 2 0 [1, 2]) = .next t :=
  ⟨by decide, by decide, exists_next (by decide)⟩

end Sys2Proof.Tests
end

/-! # A command as an attempt and its completion

Every command of R70 is the same two things: an ATTEMPT, which makes the checks, reads INBUF, uses the bus and the hidden
registers and comes to an error or to what is to be released; and the COMPLETION of R166 or R176, which makes the outcome
visible. `exec_eq_attempt` says so once; the statements about all commands are proved of the two parts. -/

namespace Sys2Proof.Machine

/-- What a successful command makes visible (R18, R42, R142). -/
inductive Release where
  /-- Bytes of OUTBUF, with `OUTLEN` their number. -/
  | bytes (out : Bytes)
  /-- `OUTLEN` alone. -/
  | size (n : Nat)
  /-- `CRCOUT`. -/
  | crc (r : Word16)
  /-- The cipher context. -/
  | context (c : Context)

/-- The writing of what is released. -/
def Release.apply : Release → State → State
  | .bytes out, s => releaseOut out s
  | .size n, s => setOutlen n s
  | .crc r, s => setCrcout r s
  | .context c, s => setOutlen 0 (setContext c s)

/-- What a command came to before its completion: its error or what it releases, and the state by then. -/
abbrev Attempt := Except Err Release × State

/-- The completion of an attempt; a failed CTXSET clears `CTX_VALID` as well (R142). -/
def complete (i : Instr) : Attempt → State
  | (.error e, t) => errorCompletion e (if i = .ctxset then setCtxValid false t else t)
  | (.ok r, t) => finishCommand (r.apply t)

/-- The attempt that releases the bytes an operation answers. -/
def releasing (p : Except Err Bytes × State) : Attempt := (p.1.map .bytes, p.2)

/-- The block loop of DECRYPT and what follows it (R151), as an attempt. -/
def decryptAttempt (p : Padding) : DecResult → Option Attempt
  | .unwritten => none
  | .failed e t => some (.error e, t)
  | .done d t => some (releasing (removePadding p d, setWorklen d.length t))

/-- ENCRYPT once its output size is known (R147). -/
def encryptAttempt (total : Nat) (data : Bytes) (s : State) : Attempt :=
  let padded := paddedInput (paddingOfBit s.ctx.pad) total data
  releasing (encBlocks (blocksOf (total / 16) padded) (loadWork padded s))

/-- What a command does once its checks have passed; `none` when it reads a byte of INBUF without a value. -/
def attemptChecked : Instr → State → Option Attempt
  | .crc16, s =>
    (readInbuf 0 s.ops.inlen.toNat s).map fun data =>
      (.ok (.crc ((loByte (crcReg data)).setWidth 16 ||| ((hiByte (crcReg data)).setWidth 16 <<< 8))),
        setCrcreg (crcReg data) s)
  | .build, s =>
    (readInbuf 0 s.ops.inlen.toNat s).map fun payload =>
      releasing (buildCommandFrame s.ops.pOpcode s.ops.pParam1 s.ops.pParam2 payload s)
  | .parse, s =>
    (readInbuf 0 s.ops.inlen.toNat s).map fun raw =>
      releasing (parseResponse s.cfg raw, parseEffect raw (rxLoad raw s))
  | .send, s =>
    (readInbuf 0 s.ops.inlen.toNat s).map fun payload =>
      let p := send s.ops.pOpcode s.ops.pParam1 s.ops.pParam2 payload s
      (p.1.map fun _ => .size 0, p.2)
  | .receive, s => some (releasing (receive s.ops.pExplen.toNat s))
  | .cryptblock, s =>
    (readInbuf 0 16 s).map fun x =>
      releasing (cryptBlock x s.ops.pSlot s.ops.pKeyidx (directionOfBit s.ops.pDir) s)
  | .reqsize, s => some ((requiredOutputSize s.ops.inlen.toNat (paddingOfBit s.ops.pPad)).map .size, s)
  | .ctxset, s => some (.ok (.context (newContext s.ops)), s)
  | .encrypt, s =>
    match requiredOutputSize s.ops.inlen.toNat (paddingOfBit s.ctx.pad) with
    | .error e => some (.error e, s)
    | .ok total => (readInbuf 0 s.ops.inlen.toNat s).map fun data => encryptAttempt total data s
  | .decrypt, s => decryptAttempt (paddingOfBit s.ctx.pad) (decBlocks (s.ops.inlen.toNat / 16) [] (loadIv s))

/-- The attempt of a command that has just started. -/
def attempt (i : Instr) (s : State) : Option Attempt :=
  match validate i s with
  | some e => some (.error e, s)
  | none => attemptChecked i s

/-- What an attempt comes to, as an outcome of the step. -/
def outcomeOf (i : Instr) : Option Attempt → Host.Outcome State Fault Refusal
  | none => .refused .inbufUnwritten
  | some p => .next (complete i p)

theorem attempt_of_invalid {i : Instr} {s : State} {e : Err} (h : validate i s = some e) :
    attempt i s = some (.error e, s) := by
  simp [attempt, h]

theorem attempt_of_valid {i : Instr} {s : State} (h : validate i s = none) :
    attempt i s = attemptChecked i s := by
  simp [attempt, h]

/-- Starting a command does not change what its checks look at. -/
@[simp] theorem validate_startCommand (i : Instr) (v : Byte) (s : State) :
    validate i (startCommand v s) = validate i s := by
  cases i <;> rfl

/-- A command whose check fails completes with the error of that check. -/
theorem exec_of_invalid {i : Instr} {s : State} {e : Err} (h : validate i (startCommand (encode i) s) = some e) :
    exec i s = .next (complete i (.error e, startCommand (encode i) s)) := by
  cases i <;> simp only [validate] at h <;>
    simp [exec, complete, h, execCrc16, execBuild, execParse, execSend, execReceive, execCryptblock, execReqsize,
      execCtxset, execEncrypt, execDecrypt]

/-- How an attempt that releases bytes completes. -/
theorem outcomeOf_releasing {i : Instr} (hi : i ≠ .ctxset) (p : Except Err Bytes × State) :
    outcomeOf i (some (releasing p)) =
      match p with
      | (.error e, t) => .next (errorCompletion e t)
      | (.ok out, t) => .next (finishCommand (releaseOut out t)) := by
  obtain ⟨_ | _, t⟩ := p <;> simp [outcomeOf, releasing, complete, Except.map, Release.apply, hi]

/-- A command whose checks pass goes on to what its attempt does then. -/
theorem exec_of_valid {i : Instr} {s : State} (h : validate i (startCommand (encode i) s) = none) :
    exec i s = outcomeOf i (attemptChecked i (startCommand (encode i) s)) := by
  cases i <;> simp only [validate] at h <;> generalize hu : startCommand _ s = u at h ⊢
  case crc16 =>
    simp only [exec, execCrc16, hu, h, attemptChecked]
    cases readInbuf 0 u.ops.inlen.toNat u <;> rfl
  case build =>
    simp only [exec, execBuild, hu, h, attemptChecked]
    cases readInbuf 0 u.ops.inlen.toNat u with
    | none => rfl
    | some payload => exact (outcomeOf_releasing (by decide) _).symm
  case parse =>
    simp only [exec, execParse, hu, h, attemptChecked]
    cases readInbuf 0 u.ops.inlen.toNat u with
    | none => rfl
    | some raw =>
      simp only [Option.map_some, outcomeOf_releasing (show Instr.parse ≠ .ctxset by decide)]
      cases parseResponse u.cfg raw <;> rfl
  case send =>
    simp only [exec, execSend, hu, h, attemptChecked]
    cases readInbuf 0 u.ops.inlen.toNat u with
    | none => rfl
    | some payload =>
      simp only [Option.map_some]
      rcases send u.ops.pOpcode u.ops.pParam1 u.ops.pParam2 payload u with ⟨_ | _, t⟩ <;> rfl
  case receive =>
    simp only [exec, execReceive, hu, h, attemptChecked]
    exact (outcomeOf_releasing (by decide) _).symm
  case cryptblock =>
    simp only [exec, execCryptblock, hu, h, attemptChecked]
    cases readInbuf 0 16 u with
    | none => rfl
    | some x => exact (outcomeOf_releasing (by decide) _).symm
  case reqsize =>
    simp only [exec, execReqsize, hu, h, attemptChecked]
    cases requiredOutputSize u.ops.inlen.toNat (paddingOfBit u.ops.pPad) <;> rfl
  case ctxset =>
    simp only [exec, execCtxset, hu, h, attemptChecked]
    rfl
  case encrypt =>
    simp only [exec, execEncrypt, hu, h, attemptChecked]
    cases requiredOutputSize u.ops.inlen.toNat (paddingOfBit u.ctx.pad) with
    | error e => rfl
    | ok total =>
      cases readInbuf 0 u.ops.inlen.toNat u with
      | none => rfl
      | some data => exact (outcomeOf_releasing (by decide) _).symm
  case decrypt =>
    simp only [exec, execDecrypt, hu, h, attemptChecked]
    cases decBlocks (u.ops.inlen.toNat / 16) [] (loadIv u) with
    | unwritten => rfl
    | failed e t => rfl
    | done d t =>
      simp only [decryptAttempt, outcomeOf_releasing (show Instr.decrypt ≠ .ctxset by decide)]
      cases removePadding (paddingOfBit u.ctx.pad) d <;> rfl

/-- A command is its start, its attempt and its completion. -/
theorem exec_eq_attempt (i : Instr) (s : State) :
    exec i s = outcomeOf i (attempt i (startCommand (encode i) s)) := by
  cases h : validate i (startCommand (encode i) s) with
  | some e => rw [exec_of_invalid h, attempt_of_invalid h]; rfl
  | none => rw [exec_of_valid h, attempt_of_valid h]

/-- A command that completes has come to an attempt, and its next state is the completion of it. -/
theorem exec_next {i : Instr} {s t : State} (h : exec i s = .next t) :
    ∃ p, attempt i (startCommand (encode i) s) = some p ∧ t = complete i p := by
  rw [exec_eq_attempt] at h
  cases hp : attempt i (startCommand (encode i) s) with
  | none => simp [hp, outcomeOf] at h
  | some p =>
    simp only [hp, outcomeOf, Host.Outcome.next.injEq] at h
    exact ⟨p, rfl, h.symm⟩

end Sys2Proof.Machine

/-! # What an attempt can do

`attempt_sound`: an attempt writes the bus record and the hidden registers only, its error is one `ERR` and `DEVSTAT` can
report together, and it releases what its command releases. -/

namespace Sys2Proof.Machine

/-- An error `ERR` and `DEVSTAT` report together: a `DeviceError` has a status that is not 0 (R133, R17). -/
def Err.Reportable (e : Err) : Prop := e ≠ .deviceError 0

/-- The kind of result each command releases (R18, R42, R142). -/
def Release.OfKind : Instr → Release → Prop
  | .build, r | .parse, r | .receive, r | .cryptblock, r | .encrypt, r | .decrypt, r => ∃ out, r = .bytes out
  | .send, r | .reqsize, r => ∃ n, r = .size n
  | .crc16, r => ∃ w, r = .crc w
  | .ctxset, r => ∃ c, r = .context c

/-- Everything but what a command may write before it completes is as before: the bus record, the CRC register, the
transport buffers, `CV`, `WORK`, `WORKLEN` and `BLK` may differ. -/
def KeepsBesideScratch (s t : State) : Prop := KeepsBesideLoop (setWorklen t.worklen s) t

theorem KeepsBesideLoop.besideScratch {s t : State} (h : KeepsBesideLoop s t) : KeepsBesideScratch s t :=
  { h with worklen := rfl }

theorem KeepsBesideScratch.trans {s t u : State} (h : KeepsBesideScratch s t) (h' : KeepsBesideScratch t u) :
    KeepsBesideScratch s u :=
  KeepsBesideLoop.trans (s := setWorklen u.worklen s) (t := setWorklen u.worklen t) { h with worklen := rfl } h'

/-! ## The frames of the operations the attempts are made of -/

theorem buildCommandFrame_frame (op p1 : Byte) (p2 : Word16) (payload : Bytes) (s : State) :
    KeepsBesideLoop s (buildCommandFrame op p1 p2 payload s).2 := by
  unfold buildCommandFrame
  split
  · exact .refl s
  · exact (storeFrame_frame op p1 p2 payload s).toKeepsBesideLoop

theorem send_frame (op p1 : Byte) (p2 : Word16) (payload : Bytes) (s : State) :
    KeepsBesideLoop s (send op p1 p2 payload s).2 := by
  rcases send_spec op p1 p2 payload s with ⟨_, h⟩ | ⟨_, h⟩ <;> rw [h]
  · exact .refl s
  · exact (storeFrame_frame op p1 p2 payload s).toKeepsBesideLoop.trans (by constructor <;> rfl)

theorem parseEffect_keeps (raw : Bytes) (s : State) : KeepsBesideLoop s (parseEffect raw s) := by
  obtain ⟨r, h⟩ := parseEffect_frame raw s
  exact h ▸ (setCrcreg_frame r s).toKeepsBesideLoop

theorem receiveEffect_keeps (e : Nat) (raw : Bytes) (s : State) : KeepsBesideLoop s (receiveEffect e raw s) := by
  obtain ⟨r, h⟩ := receiveEffect_frame e raw s
  exact h ▸ (setCrcreg_frame r s).toKeepsBesideLoop

theorem classifyEffect_keeps (raw : Bytes) (s : State) : KeepsBesideLoop s (classifyEffect raw s) := by
  obtain ⟨r, h⟩ := classifyEffect_frame raw s
  exact h ▸ (setCrcreg_frame r s).toKeepsBesideLoop

theorem rxLoad_frame (raw : Bytes) (s : State) : KeepsBesideLoop s (rxLoad raw s) := by constructor <;> rfl

theorem receive_frame (e : Nat) (s : State) : KeepsBesideLoop s (receive e s).2 :=
  (collect_frame e s).toKeepsBesideLoop.trans (receiveEffect_keeps e _ _)

theorem loadIv_frame (s : State) : KeepsBesideLoop s (loadIv s) := by constructor <;> rfl

theorem loadWork_frame (data : Bytes) (s : State) : KeepsBesideScratch s (loadWork data s) := by constructor <;> rfl

theorem setWorklen_frame (n : Nat) (s : State) : KeepsBesideScratch s (setWorklen n s) := by constructor <;> rfl

/-! ## The errors -/

theorem firstError_reportable {l : List (Bool × Err)} {e : Err} (hl : ∀ c ∈ l, c.2.Reportable)
    (h : firstError l = some e) : e.Reportable := by
  induction l with
  | nil => cases h
  | cons c l ih =>
    obtain ⟨hc, htail⟩ := List.forall_mem_cons.1 hl
    obtain ⟨_ | _, e'⟩ := c
    · exact ih htail h
    · cases h; exact hc

theorem validate_error_reportable {i : Instr} {s : State} {e : Err} (h : validate i s = some e) : e.Reportable := by
  cases i <;> exact firstError_reportable (by simp [keyChecks, Err.Reportable]) h

theorem classify_reportable {cfg : Config} {raw : Bytes} {e : Err} (h : e.Reportable) :
    (classify cfg raw e).Reportable := by
  unfold classify
  split
  · simp_all [Err.Reportable]
  · exact h

theorem parseResponse_error_reportable {cfg : Config} {raw : Bytes} {e : Err} (h : parseResponse cfg raw = .error e) :
    e.Reportable := by
  rcases parseResponse_error h with rfl | rfl <;> simp [Err.Reportable]

theorem receiveOutcome_error_reportable {cfg : Config} {n : Nat} {raw : Bytes} {e : Err}
    (h : receiveOutcome cfg n raw = .error e) : e.Reportable := by
  rcases receiveOutcome_error h with rfl | rfl | rfl <;> simp [Err.Reportable]

theorem buildCommandFrame_error_reportable {op p1 : Byte} {p2 : Word16} {payload : Bytes} {s : State} {e : Err}
    (h : (buildCommandFrame op p1 p2 payload s).1 = .error e) : e.Reportable := by
  unfold buildCommandFrame at h
  split at h <;> cases h
  simp [Err.Reportable]

theorem send_error_reportable {op p1 : Byte} {p2 : Word16} {payload : Bytes} {s : State} {e : Err}
    (h : (send op p1 p2 payload s).1 = .error e) : e.Reportable := by
  rcases send_spec op p1 p2 payload s with ⟨_, h'⟩ | ⟨_, h'⟩ <;> rw [h'] at h <;> cases h
  simp [Err.Reportable]

theorem requiredOutputSize_error_reportable {n : Nat} {p : Padding} {e : Err} (h : requiredOutputSize n p = .error e) :
    e.Reportable := by
  unfold requiredOutputSize at h
  split at h
  · split at h <;> cases h
    simp [Err.Reportable]
  · cases h

theorem removePadding_error_reportable {p : Padding} {d : Bytes} {e : Err} (h : removePadding p d = .error e) :
    e.Reportable := by
  cases p
  · cases h
  · simp only [removePadding, unpad7] at h
    repeat' split at h
    all_goals cases h
    all_goals simp [Err.Reportable]

theorem cryptBlock_error_reportable {x : Bytes} {slot key : Byte} {dir : Direction} {s : State} {e : Err}
    (h : (cryptBlock x slot key dir s).1 = .error e) : e.Reportable := by
  rcases cryptBlock_spec x slot key dir s with ⟨h', _⟩ | ⟨_, cs, _, _, _, h', _⟩ <;> rw [h'] at h
  · cases h; simp [Err.Reportable]
  · split at h
    · cases h
    · rename_i e' he
      cases h
      exact classify_reportable (receiveOutcome_error_reportable he)

theorem encBlocks_error_reportable {bs : List Bytes} {s : State} {e : Err} (h : (encBlocks bs s).1 = .error e) :
    e.Reportable := by
  induction bs generalizing s with
  | nil => cases h
  | cons b bs ih =>
    have hb := @cryptBlock_error_reportable (encInput b s) s.ctx.slot s.ctx.keyIdx .encrypt s
    simp only [encBlocks] at h
    generalize cryptBlock (encInput b s) s.ctx.slot s.ctx.keyIdx .encrypt s = q at h hb
    obtain ⟨_ | c, t⟩ := q
    · cases h; exact hb rfl
    · simp only at h
      have hr := @ih (encStore c t)
      generalize encBlocks bs (encStore c t) = q at h hr
      obtain ⟨_ | cs, u⟩ := q
      · cases h; exact hr rfl
      · cases h

theorem decBlocks_error_reportable {n : Nat} {got : Bytes} {s t : State} {e : Err}
    (h : decBlocks n got s = .failed e t) : e.Reportable := by
  induction n generalizing got s with
  | zero => cases h
  | succ n ih =>
    simp only [decBlocks] at h
    cases hc : readInbuf (16 * s.blk) 16 s with
    | none => simp [hc] at h
    | some c =>
      simp only [hc] at h
      have hb := @cryptBlock_error_reportable c s.ctx.slot s.ctx.keyIdx .decrypt s
      generalize cryptBlock c s.ctx.slot s.ctx.keyIdx .decrypt s = q at h hb
      obtain ⟨_ | d, u⟩ := q
      · cases h; exact hb rfl
      · exact ih h

/-! ## The attempts -/

/-- What every attempt of a command from `s` comes to. -/
structure Attempt.Sound (i : Instr) (s : State) (p : Attempt) : Prop where
  frame : KeepsBesideScratch s p.2
  error : ∀ e, p.1 = .error e → e.Reportable
  release : ∀ r, p.1 = .ok r → r.OfKind i

theorem Attempt.sound_error {i : Instr} {s t : State} {e : Err} (he : e.Reportable) (h : KeepsBesideScratch s t) :
    Attempt.Sound i s (.error e, t) :=
  ⟨h, fun _ h' => by cases h'; exact he, fun _ h' => by cases h'⟩

/-- An attempt that releases what an operation answers is sound when the operation is. -/
theorem Attempt.sound_map {α : Type} {i : Instr} {s t : State} {o : Except Err α} {f : α → Release}
    (hk : ∀ a, (f a).OfKind i) (he : ∀ e, o = .error e → e.Reportable) (h : KeepsBesideScratch s t) :
    Attempt.Sound i s (o.map f, t) := by
  cases o with
  | error e => exact Attempt.sound_error (he e rfl) h
  | ok a => exact ⟨h, fun _ h' => (by cases h'), fun _ h' => by cases h'; exact hk a⟩

theorem decryptAttempt_sound {s : State} {p : Attempt}
    (h : decryptAttempt (paddingOfBit s.ctx.pad) (decBlocks (s.ops.inlen.toNat / 16) [] (loadIv s)) = some p) :
    Attempt.Sound .decrypt s p := by
  have hf := decBlocks_frame (s.ops.inlen.toNat / 16) [] (loadIv s)
  have he := @decBlocks_error_reportable (s.ops.inlen.toNat / 16) [] (loadIv s)
  cases hd : decBlocks (s.ops.inlen.toNat / 16) [] (loadIv s) with
  | unwritten => simp [hd, decryptAttempt] at h
  | failed e t =>
    simp only [hd, decryptAttempt, Option.some.injEq] at h hf
    subst h
    exact Attempt.sound_error (he hd) ((loadIv_frame s).trans hf).besideScratch
  | done d t =>
    simp only [hd, decryptAttempt, Option.some.injEq] at h hf
    subst h
    exact Attempt.sound_map (fun _ => ⟨_, rfl⟩) (fun _ => removePadding_error_reportable)
      (((loadIv_frame s).trans hf).besideScratch.trans (setWorklen_frame d.length t))

theorem attemptChecked_sound {i : Instr} {s : State} {p : Attempt} (h : attemptChecked i s = some p) :
    Attempt.Sound i s p := by
  cases i
  case crc16 =>
    obtain ⟨data, -, rfl⟩ := Option.map_eq_some_iff.1 h
    exact Attempt.sound_map (o := .ok ()) (f := fun _ => Release.crc _) (fun _ => ⟨_, rfl⟩) (fun _ h => by cases h)
      (setCrcreg_frame _ s).toKeepsBesideLoop.besideScratch
  case build =>
    obtain ⟨payload, -, rfl⟩ := Option.map_eq_some_iff.1 h
    exact Attempt.sound_map (fun _ => ⟨_, rfl⟩) (fun _ => buildCommandFrame_error_reportable)
      (buildCommandFrame_frame _ _ _ _ s).besideScratch
  case parse =>
    obtain ⟨raw, -, rfl⟩ := Option.map_eq_some_iff.1 h
    exact Attempt.sound_map (fun _ => ⟨_, rfl⟩) (fun _ => parseResponse_error_reportable)
      ((rxLoad_frame raw s).trans (parseEffect_keeps raw _)).besideScratch
  case send =>
    obtain ⟨payload, -, rfl⟩ := Option.map_eq_some_iff.1 h
    exact Attempt.sound_map (fun _ => ⟨_, rfl⟩) (fun _ => send_error_reportable)
      (send_frame _ _ _ _ s).besideScratch
  case receive =>
    cases h
    exact Attempt.sound_map (fun _ => ⟨_, rfl⟩) (fun _ => receiveOutcome_error_reportable)
      (receive_frame _ s).besideScratch
  case cryptblock =>
    obtain ⟨x, -, rfl⟩ := Option.map_eq_some_iff.1 h
    exact Attempt.sound_map (fun _ => ⟨_, rfl⟩) (fun _ => cryptBlock_error_reportable)
      (cryptBlock_frame x _ _ _ s).toKeepsBesideLoop.besideScratch
  case reqsize =>
    cases h
    exact Attempt.sound_map (fun _ => ⟨_, rfl⟩) (fun _ => requiredOutputSize_error_reportable)
      (KeepsBesideLoop.refl s).besideScratch
  case ctxset =>
    cases h
    exact Attempt.sound_map (o := .ok ()) (f := fun _ => Release.context _) (fun _ => ⟨_, rfl⟩)
      (fun _ h => by cases h) (KeepsBesideLoop.refl s).besideScratch
  case encrypt =>
    simp only [attemptChecked] at h
    cases hq : requiredOutputSize s.ops.inlen.toNat (paddingOfBit s.ctx.pad) with
    | error e =>
      simp only [hq, Option.some.injEq] at h
      subst h
      exact Attempt.sound_error (requiredOutputSize_error_reportable hq) (KeepsBesideLoop.refl s).besideScratch
    | ok total =>
      simp only [hq] at h
      obtain ⟨data, -, rfl⟩ := Option.map_eq_some_iff.1 h
      exact Attempt.sound_map (fun _ => ⟨_, rfl⟩) (fun _ => encBlocks_error_reportable)
        ((loadWork_frame _ s).trans (encBlocks_frame _ _).besideScratch)
  case decrypt => exact decryptAttempt_sound h

/-- What every attempt can do. -/
theorem attempt_sound {i : Instr} {s : State} {p : Attempt} (h : attempt i s = some p) : Attempt.Sound i s p := by
  cases hv : validate i s with
  | some e =>
    rw [attempt_of_invalid hv] at h
    cases h
    exact Attempt.sound_error (validate_error_reportable hv) (KeepsBesideLoop.refl s).besideScratch
  | none => exact attemptChecked_sound (attempt_of_valid hv ▸ h)

/-- What every command that completes has done: a sound attempt from its start, completed. -/
theorem exec_next_sound {i : Instr} {s t : State} (h : exec i s = .next t) :
    ∃ p, Attempt.Sound i (startCommand (encode i) s) p ∧ t = complete i p := by
  obtain ⟨p, hp, rfl⟩ := exec_next h
  exact ⟨p, attempt_sound hp, rfl⟩

end Sys2Proof.Machine

/-! # What holds of every completion: O31, O35, and the second part of O51 -/

namespace Sys2Proof.Machine

/-- The completion of ENCRYPT and DECRYPT wipes the scratch of the command (R23). -/
theorem finishCommand_wiped {s : State} (h : usesWork s.cur = true) : (finishCommand s).Wiped := by
  refine ⟨by simp [h], by simp [h], fun a ha => ?_⟩
  simp only [finishCommand_cfg] at ha
  simp [h, read_writeBytes, ha, rep]

@[simp] theorem Release.apply_cur (r : Release) (s : State) : (r.apply s).cur = s.cur := by
  cases r <;> rfl

/-- Every completion is the last step of the sequencer, of a state with the same command in the latch. -/
theorem complete_eq_finishCommand (i : Instr) (p : Attempt) :
    ∃ u, complete i p = finishCommand u ∧ u.cur = p.2.cur := by
  obtain ⟨e | r, t⟩ := p
  · by_cases hi : i = .ctxset
    · exact ⟨writeError e (setCtxValid false t), by simp [complete, hi, errorCompletion], rfl⟩
    · exact ⟨writeError e t, by simp [complete, hi, errorCompletion], rfl⟩
  · exact ⟨r.apply t, rfl, r.apply_cur t⟩

/-- Settles O31: the completion itself wipes, and an attempt leaves the latched code alone. -/
theorem cipherCommandsWipeTheirScratch : Obligations.CipherCommandsWipeTheirScratch := by
  intro i s t hi h
  obtain ⟨p, hp, rfl⟩ := exec_next_sound h
  obtain ⟨u, hu, hcur⟩ := complete_eq_finishCommand i p
  rw [hu]
  apply finishCommand_wiped
  rw [hcur, hp.frame.cur]
  rcases hi with rfl | rfl <;> rfl

/-- Only the context is released with a write of the context. -/
theorem Release.apply_keepsContext {i : Instr} {r : Release} (s : State) (hi : i ≠ .ctxset) (hr : r.OfKind i) :
    KeepsContext s (r.apply s) := by
  cases r
  case context c => cases i <;> simp [Release.OfKind] at hr hi
  all_goals exact ⟨rfl, rfl⟩

/-- Settles O35: an attempt keeps the context; of the completions, only that of CTXSET writes it. -/
theorem onlyCtxsetWritesTheContext : Obligations.OnlyCtxsetWritesTheContext := by
  intro i s t h
  obtain ⟨⟨o, u⟩, hp, rfl⟩ := exec_next_sound h
  have hctx : u.ctx = s.ctx := hp.frame.ctx
  have hvalid : u.ctxValid = s.ctxValid := hp.frame.ctxValid
  cases o with
  | error e =>
    refine ⟨fun hi => ?_, fun hi _ => ?_⟩
    · simp [complete, KeepsContext, hi, hctx, hvalid]
    · simp [complete, hi, hctx]
  | ok r =>
    refine ⟨fun hi => ?_, fun hi herr => ?_⟩
    · obtain ⟨h1, h2⟩ := Release.apply_keepsContext u hi (hp.release r rfl)
      simp [complete, KeepsContext, h1, h2, hctx, hvalid]
    · obtain ⟨c, rfl⟩ : ∃ c, r = .context c := by simpa [hi, Release.OfKind] using hp.release r rfl
      have : u.errf = false := hp.frame.errf
      simp [complete, Release.apply, this] at herr

/-- A read of no more than what was written from offset 0 on gives the beginning of it. -/
theorem readBytes_writeBytes_take (m : Memory) {bs : Bytes} {n : Nat} (h : n ≤ bs.length) :
    (m.writeBytes 0 bs).readBytes 0 n = some (bs.take n) := by
  rw [readBytes_eq_some_iff]
  refine ⟨by simp [h], fun a ha => ?_⟩
  rw [read_writeBytes, if_pos (by omega), Nat.zero_add, Nat.sub_zero, List.getElem?_take_of_lt ha]

/-- After a success of a command that releases bytes, the bytes counted by `OUTLEN` have values (R26). -/
theorem exec_defines_outbuf {i : Instr} {s t : State} (h : exec i s = .next t) (herr : t.errf = false)
    (hi : ∀ r, Release.OfKind i r → ∃ out, r = .bytes out) :
    ∃ bs, t.outbuf.readBytes 0 t.outlen.toNat = some bs := by
  obtain ⟨⟨o, u⟩, hp, rfl⟩ := exec_next_sound h
  cases o with
  | error e => simp [complete] at herr
  | ok r =>
    obtain ⟨out, rfl⟩ := hi r (hp.release r rfl)
    simp only [complete, Release.apply, finishCommand_outbuf, releaseOut_outbuf, finishCommand_outlen,
      releaseOut_outlen, BitVec.toNat_ofNat]
    exact ⟨_, readBytes_writeBytes_take _ (Nat.mod_le _ _)⟩

end Sys2Proof.Machine

/-! # The host port: O45, O48 to O52, O55, O57, O59 -/

namespace Sys2Proof.Machine

/-! ## The step -/

/-- With no action queued the step is one transition of the sequencer. -/
theorem step_of_idle_host {s : State} (h : s.hostq = []) : Sys2Proof.Machine.step s = seqStep s := by
  simp only [step, machineStep, h]

/-- With an action queued the step is that action. -/
theorem step_of_hostAct {s : State} {a : HostAction} {rest : List HostAction} (h : s.hostq = a :: rest) :
    Sys2Proof.Machine.step s = hostAct a rest s := by
  simp only [step, machineStep, h]

theorem decode_encode (i : Instr) : decode (encode i) = .ok i := by
  cases i <;> decide

theorem runCommand_of_decode {v : Byte} {i : Instr} (s : State) (h : decode v = .ok i) : runCommand v s = exec i s := by
  simp only [runCommand, h]

theorem hostAct_cmd_of_idle {v : Byte} {rest : List HostAction} {s : State} (h : s.busy = false) :
    hostAct (.cmd v) rest s = runCommand v (setHostq rest s) := by
  simp [hostAct, h]

/-- A write to `CMD` while no command runs starts one (R160). -/
theorem writeRegNumber_cmd {s : State} (v : Word128) (h : s.busy = false) :
    writeRegNumber 0 v s = startCommand (v.setWidth 8) s := by
  simp [writeRegNumber, h, regOfNumber, regTable]

/-- Settles O45: each line of the queue by the equation of its action. -/
theorem stepRunsTheCommandWritten : Obligations.StepRunsTheCommandWritten := by
  refine ⟨?_, ?_, ?_, ?_⟩
  · intro s v i rest hq hb hd
    rw [step_of_hostAct hq, hostAct_cmd_of_idle hb, runCommand_of_decode _ hd]
    rfl
  · intro s i
    have hq : (s.withFetchWord 8 (encode i).toNat).hostq = .cmd (encode i) :: s.hostq := by
      simp [State.withFetchWord, placeCommand]
    rw [step_of_hostAct hq, hostAct_cmd_of_idle rfl, runCommand_of_decode _ (decode_encode i)]
    rfl
  · intro s v rest hq hb
    have hstep : Sys2Proof.Machine.step s = .next (startCommand (v.setWidth 8) { s with hostq := rest }) := by
      rw [step_of_hostAct hq, hostAct, writeRegNumber_cmd v (by exact hb)]
      rfl
    exact ⟨hstep, hstep⟩
  · intro s v rest
    refine ⟨step_of_idle_host, fun hq => ?_, fun hq hb => ?_, fun hq hb => ?_, fun hq hb => ?_⟩ <;>
      rw [step_of_hostAct hq]
    · rfl
    · simp [hostAct, hb]
    · simp [hostAct, setHostq, hb]
    · simp [hostAct, setHostq, hb]

/-! ## The register map -/

theorem regOfNumber_reserved {n : Byte} (h : 24 ≤ n.toNat) : regOfNumber n = none :=
  List.getElem?_eq_none h

/-- Two numbers of one register are the same number. -/
theorem regOfNumber_inj {m n : Byte} {r : Reg} (hm : regOfNumber m = some r) (hn : regOfNumber n = some r) : m = n := by
  obtain ⟨hm_lt, rfl⟩ := List.getElem?_eq_some_iff.1 hm
  obtain ⟨hn_lt, he⟩ := List.getElem?_eq_some_iff.1 hn
  have hnodup : regTable.Nodup := by decide
  exact BitVec.eq_of_toNat_eq (hnodup.getElem_inj_iff.1 he.symm)

theorem readRegNumber_of_regOfNumber {n : Byte} {r : Reg} (s : State) (h : regOfNumber n = some r) :
    readRegNumber s n = readReg s r := by
  simp only [readRegNumber, h]

/-- A reserved number reads 0 (R14). -/
theorem readRegNumber_reserved (s : State) {n : Byte} (h : 24 ≤ n.toNat) : readRegNumber s n = 0 := by
  simp only [readRegNumber, regOfNumber_reserved h]

/-- The value of `STATUS` from its bits (R13). -/
theorem statusByte_toNat (s : State) :
    (statusByte s).toNat = s.busy.toNat + 2 * s.done.toNat + 4 * s.errf.toNat + 8 * s.ctxValid.toNat := by
  unfold statusByte
  generalize s.busy = b, s.done = d, s.errf = e, s.ctxValid = c
  revert b d e c
  decide

/-- While no command runs, a read of `STATUS` sees the flags as they are. -/
theorem hostStatus_of_idle {s : State} (h : s.busy = false) : hostStatus s = statusByte s := by
  simp [hostStatus, statusByte, h]

/-- Settles O48: `STATUS` by its bits, the other numbers by the table. -/
theorem registerMapReads : Obligations.RegisterMapReads := by
  intro s hb
  have hstatus : (readRegNumber s 1).toNat = 2 * s.done.toNat + 4 * s.errf.toNat + 8 * s.ctxValid.toNat := by
    have h := statusByte_toNat s
    rw [readRegNumber_of_regOfNumber s (show regOfNumber 1 = some .status from rfl), readReg, hostStatus_of_idle hb,
      BitVec.toNat_setWidth, Nat.mod_eq_of_lt (by have := (statusByte s).isLt; omega), h, hb]
    simp
  have hidle : ∀ v, whenIdle s v = v := fun v => by simp [whenIdle, hb]
  have hidle16 : ∀ v, whenIdle16 s v = v := fun v => by simp [whenIdle16, hb]
  refine ⟨rfl, hstatus, congrArg (BitVec.setWidth 128) (hidle _), congrArg (BitVec.setWidth 128) (hidle _), rfl, rfl,
    congrArg (BitVec.setWidth 128) (hidle16 _), congrArg (BitVec.setWidth 128) (hidle16 _), ?_⟩
  exact ⟨rfl, rfl, rfl, rfl, rfl, rfl, rfl, rfl, rfl, rfl, rfl, rfl, rfl, rfl, rfl, rfl,
    fun n hn => readRegNumber_reserved s hn⟩

/-! ## Register writes -/

/-- A write to a register the host may not write is ignored (R14). -/
theorem writeRegNumber_of_not_writable {n : Byte} (v : Word128) (s : State)
    (h : ∀ r, regOfNumber n = some r → regHostWrites r = false) : writeRegNumber n v s = s := by
  unfold writeRegNumber
  split
  · rfl
  · cases hn : regOfNumber n with
    | none => rfl
    | some r =>
      have hr := h r hn
      cases r <;> first | rfl | cases hr

/-- Settles O50: such a write is ignored before it reaches a register. -/
theorem unwritableRegistersAreInert : Obligations.UnwritableRegistersAreInert := by
  intro s n v rest
  refine ⟨readRegNumber_reserved s, rfl, fun hq hr => ?_⟩
  rw [step_of_hostAct hq, hostAct, writeRegNumber_of_not_writable v _ hr]
  rfl

/-- A write to an operand register while no command runs (R14). -/
theorem writeRegNumber_operand {n : Byte} {r : Reg} (v : Word128) {s : State} (hb : s.busy = false)
    (hn : regOfNumber n = some r) (hr : r ≠ .cmd) :
    writeRegNumber n v s = { s with ops := writeOperand r v s.ops } := by
  simp only [writeRegNumber, hb, hn]
  cases r
  case cmd => exact absurd rfl hr
  all_goals rfl

/-- A register the host may write reads back as the value cut to its width. -/
theorem readReg_writeOperand_same {r : Reg} (v : Word128) (s : State) (hr : r ≠ .cmd) (hw : regHostWrites r = true) :
    readReg { s with ops := writeOperand r v s.ops } r = BitVec.ofNat 128 (v.toNat % 2 ^ regWidth r) := by
  apply BitVec.eq_of_toNat_eq
  cases r
  case pIv => simpa [readReg, writeOperand, regWidth] using (Nat.mod_eq_of_lt v.isLt).symm
  all_goals simp_all [readReg, writeOperand, regWidth, regHostWrites]

/-- A write to one register leaves what every other one reads. -/
theorem readReg_writeOperand_other {r r' : Reg} (v : Word128) (s : State) (h : r' ≠ r) :
    readReg { s with ops := writeOperand r v s.ops } r' = readReg s r' := by
  cases r' <;> first | rfl | (cases r <;> first | rfl | exact absurd rfl h)

theorem readRegNumber_writeOperand_other {m n : Byte} {r : Reg} (v : Word128) (s : State) (hn : regOfNumber n = some r)
    (h : m ≠ n) : readRegNumber { s with ops := writeOperand r v s.ops } m = readRegNumber s m := by
  cases hm : regOfNumber m with
  | none => simp only [readRegNumber, hm]
  | some r' =>
    rw [readRegNumber_of_regOfNumber _ hm, readRegNumber_of_regOfNumber _ hm]
    exact readReg_writeOperand_other v s fun he => h (regOfNumber_inj (he ▸ hm) hn)

/-! ## Accesses to INBUF -/

theorem readInbuf_eq_none {s : State} {off n k : Nat} (hk : k < n) (h : s.inbuf.read (off + k) = none) :
    readInbuf off n s = none := by
  rw [Option.eq_none_iff_forall_ne_some]
  intro bs hbs
  obtain ⟨hl, hr⟩ := (readBytes_eq_some_iff _ _ _ _).1 hbs
  have := (hr k hk).symm.trans h
  simp at this
  omega

theorem hostReadInbuf_some {s : State} {off n : Nat} {bs : Bytes} (hfit : off + n ≤ s.cfg.bufCap)
    (h : readInbuf off n s = some bs) : hostReadInbuf off n s = .next (recordRead (.inbuf off bs) s) := by
  simp [hostReadInbuf, h, Nat.not_lt.2 hfit]

theorem hostReadInbuf_none {s : State} {off n : Nat} (hfit : off + n ≤ s.cfg.bufCap) (h : readInbuf off n s = none) :
    hostReadInbuf off n s = .refused .inbufUnwritten := by
  simp [hostReadInbuf, h, Nat.not_lt.2 hfit]

theorem writeInbuf_of_idle {s : State} {off : Nat} {bytes : Bytes} (hb : s.busy = false)
    (hfit : off + bytes.length ≤ s.cfg.bufCap) :
    writeInbuf off bytes s = .next { s with inbuf := s.inbuf.writeBytes off bytes } := by
  simp [writeInbuf, hb, Nat.not_lt.2 hfit]

/-- Settles O49: the five kinds of access, each by what the step makes of its line. -/
theorem registerReadsBackWhatWasWritten : Obligations.RegisterReadsBackWhatWasWritten := by
  refine ⟨?_, ?_, ?_, ?_, ?_⟩
  · intro s n v r rest hq hb hn hr hw
    refine ⟨{ s with hostq := rest, ops := writeOperand r v s.ops }, ?_, ?_, fun m hm => ?_, rfl⟩
    · rw [step_of_hostAct hq, hostAct, writeRegNumber_operand v (by exact hb) hn hr]
      rfl
    · rw [readRegNumber_of_regOfNumber _ hn]
      exact readReg_writeOperand_same v (setHostq rest s) hr hw
    · exact readRegNumber_writeOperand_other v (setHostq rest s) hn hm
  · intro s off bytes rest hq hb hfit
    refine ⟨{ s with hostq := rest, inbuf := s.inbuf.writeBytes off bytes }, ?_,
      read_writeBytes s.inbuf off bytes, rfl⟩
    rw [step_of_hostAct hq, hostAct, writeInbuf_of_idle (by exact hb) (by exact hfit)]
    rfl
  · intro s off n rest hq hfit
    rw [step_of_hostAct hq, hostAct]
    refine ⟨fun bs hl hr => ?_, fun ⟨k, hk, hnone⟩ => ?_⟩
    · exact hostReadInbuf_some (s := setHostq rest s) hfit ((readBytes_eq_some_iff _ _ _ _).2 ⟨hl, hr⟩)
    · exact hostReadInbuf_none hfit (readInbuf_eq_none hk hnone)
  · intro s n rest hq
    rw [step_of_hostAct hq]
    rfl
  · intro s off n bytes rest
    refine ⟨fun hq hfar => ?_, ?_⟩
    · rw [step_of_hostAct hq]
      simp [hostAct, writeInbuf, hfar]
    · rintro (hq | hq) hfar <;> rw [step_of_hostAct hq]
      · simp [hostAct, hostReadInbuf, hfar]
      · simp [hostAct, hostReadOutbuf, hfar]

/-! ## Reads of OUTBUF -/

/-- The defined part of OUTBUF, in the words of R26. -/
theorem definedOut_eq (s : State) :
    definedOut s =
      if s.done = true ∧ s.busy = false ∧ s.errf = false ∧
          (s.cur = 0x02 ∨ s.cur = 0x03 ∨ s.cur = 0x05 ∨ s.cur = 0x06 ∨ s.cur = 0x09 ∨ s.cur = 0x0A)
      then s.outlen.toNat else 0 := by
  have hdef : definesOutbuf s.cur = true ↔
      s.cur = 0x02 ∨ s.cur = 0x03 ∨ s.cur = 0x05 ∨ s.cur = 0x06 ∨ s.cur = 0x09 ∨ s.cur = 0x0A := by
    simp [definesOutbuf, encode, or_assoc]
  simp [definedOut, hdef, and_assoc]

/-- Settles O51: the read by the cases of `hostReadOutbuf`, the values by `exec_defines_outbuf`. -/
theorem outbufReadsStayInTheDefinedPart : Obligations.OutbufReadsStayInTheDefinedPart := by
  refine ⟨?_, ?_⟩
  · intro s off n rest hq hfit
    rw [step_of_hostAct hq]
    simp only [← definedOut_eq]
    have hfit' : ¬ (setHostq rest s).cfg.bufCap < off + n := Nat.not_lt.2 hfit
    have hdef : definedOut (setHostq rest s) = definedOut s := rfl
    simp only [hostAct, hostReadOutbuf, hfit', hdef, if_false]
    refine ⟨fun hn hout => ?_, ?_, fun bs hin hbs => ?_⟩
    · rw [if_pos ⟨hn, hout⟩]
    · rintro rfl
      rfl
    · have hbs' : (setHostq rest s).outbuf.readBytes off n = some bs := hbs
      rw [if_neg (by omega), hbs']
      rfl
  · intro i s t h herr hi
    refine exec_defines_outbuf h herr ?_
    rcases hi with rfl | rfl | rfl | rfl | rfl | rfl <;> exact fun _ hr => hr

/-! ## Reset -/

/-- Settles O52 by evaluation of the reset state. -/
theorem resetState : Obligations.ResetState := by
  refine ⟨rfl, rfl, rfl, rfl, rfl, rfl, rfl, rfl, rfl, rfl, rfl, rfl, rfl, rfl, rfl, rfl, rfl, ?_⟩
  exact ⟨rfl, rfl, rfl, rfl, rfl, rfl, rfl, rfl, rfl, rfl, rfl, rfl, rfl, rfl, rfl, rfl,
    fun _ => ⟨rfl, rfl, rfl, rfl, rfl⟩⟩

/-- Settles O57: an array that lists nothing is in canonical form. -/
theorem resetMemoryCanonical : Obligations.ResetMemoryCanonical :=
  ⟨.nil, .nil, .nil, .nil, .nil⟩

/-- Settles O59: the trace is empty and the sequencer is not in `S_TX`. -/
theorem resetWakesFirst : Obligations.ResetWakesFirst :=
  ⟨trivial, fun h => nomatch h⟩

end Sys2Proof.Machine

/-! # The flags, the error code and the device status: O54, O55

A transition of the sequencer either moves on with the flags as they are, or is `S_FAIL`, which writes an error that can
be reported, or is `S_FINISH`, which completes. A host action starts a command, completes one, resets the block, or leaves
the flags alone. -/

namespace Sys2Proof.Machine

/-! ## One transition -/

/-- The flags and the error registers are as before. -/
structure KeepsFlags (s t : State) : Prop where
  busy : t.busy = s.busy
  done : t.done = s.done
  errf : t.errf = s.errf
  err : t.err = s.err
  devstat : t.devstat = s.devstat

/-- A transition that moves on: the flags stay, `S_IDLE` is not entered, and an error that enters the latch can be
reported. -/
structure MovesOn (s t : State) : Prop extends KeepsFlags s t where
  seq : t.seq = .sIdle → s.seq = .sIdle
  pend : t.pend = some (.deviceError 0) → s.pend = some (.deviceError 0)

/-- Every next state of the outcome has moved on from `s`. -/
def OnlyMovesOn (s : State) (o : Host.Outcome State Fault Refusal) : Prop := ∀ t, o = .next t → MovesOn s t

theorem KeepsBesideLoop.movesOn {s t : State} (h : KeepsBesideLoop s t) : MovesOn s t :=
  ⟨⟨h.busy, h.done, h.errf, h.err, h.devstat⟩, fun hs => h.seq ▸ hs, fun hp => h.pend ▸ hp⟩

theorem OnlyMovesOn.fault (s : State) (f : Fault) : OnlyMovesOn s (.fault f) := fun _ h => by cases h

theorem OnlyMovesOn.refused (s : State) (r : Refusal) : OnlyMovesOn s (.refused r) := fun _ h => by cases h

theorem OnlyMovesOn.next {s t : State} (h : MovesOn s t) : OnlyMovesOn s (.next t) := fun _ h' => by cases h'; exact h

/-- Going to a state other than `S_IDLE` with the flags and the latch as they are. -/
theorem OnlyMovesOn.goto {s u : State} {q : SeqState} (hq : q ≠ .sIdle) (h : KeepsFlags s u) (hp : u.pend = s.pend) :
    OnlyMovesOn s (.next (seqGoto q u)) :=
  .next ⟨⟨h.busy, h.done, h.errf, h.err, h.devstat⟩, fun hs => absurd hs hq, fun hp' => hp ▸ hp'⟩

/-- Going to `S_FAIL` with an error that can be reported. -/
theorem OnlyMovesOn.fail {s u : State} {e : Err} (he : e = .deviceError 0 → s.pend = some (.deviceError 0))
    (h : KeepsFlags s u) : OnlyMovesOn s (.next (seqFail e u)) :=
  .next ⟨⟨h.busy, h.done, h.errf, h.err, h.devstat⟩, fun hs => (by cases hs), fun hp => he (Option.some.inj hp)⟩

/-- Going to `S_CLASSIFY` with the error of the parser. -/
theorem OnlyMovesOn.classify {s u : State} {e : Err} (he : e.Reportable) (h : KeepsFlags s u) :
    OnlyMovesOn s (.next (seqToClassify e u)) :=
  .next ⟨⟨h.busy, h.done, h.errf, h.err, h.devstat⟩, fun hs => (by cases hs),
    fun hp => absurd (Option.some.inj hp) he⟩

theorem OnlyMovesOn.withBytes {s : State} {r : Refusal} {o : Option Bytes}
    {k : Bytes → Host.Outcome State Fault Refusal} (h : ∀ bs, OnlyMovesOn s (k bs)) :
    OnlyMovesOn s (withBytes r o k) := by
  cases o with
  | none => exact .refused s r
  | some bs => exact h bs

theorem KeepsFlags.refl (s : State) : KeepsFlags s s := ⟨rfl, rfl, rfl, rfl, rfl⟩

theorem KeepsBesideLoop.keepsFlags {s t : State} (h : KeepsBesideLoop s t) : KeepsFlags s t := h.movesOn.toKeepsFlags

theorem seqValidate_movesOn (s : State) : OnlyMovesOn s (seqValidate s) := by
  unfold seqValidate
  cases decode s.cur with
  | error => exact .fail (by simp) (.refl s)
  | ok i =>
    simp only
    cases hv : validate i s with
    | some e =>
      refine .fail (fun he => absurd he (validate_error_reportable hv)) ?_
      split <;> exact ⟨rfl, rfl, rfl, rfl, rfl⟩
    | none =>
      cases i <;> simp only
      case parse => exact .withBytes fun raw => .goto (by decide) (rxLoad_frame raw s).keepsFlags rfl
      case receive => exact .goto (by decide) ⟨rfl, rfl, rfl, rfl, rfl⟩ rfl
      all_goals exact .goto (by decide) (.refl s) rfl

theorem seqFrame_movesOn (op p1 : Byte) (p2 : Word16) (payload : Bytes) {q : SeqState} (hq : q ≠ .sIdle) (s : State) :
    OnlyMovesOn s (seqFrame op p1 p2 payload q s) := by
  have hf := buildCommandFrame_frame op p1 p2 payload s
  have he := @buildCommandFrame_error_reportable op p1 p2 payload s
  unfold seqFrame
  generalize buildCommandFrame op p1 p2 payload s = r at hf he
  obtain ⟨e | f, t⟩ := r
  · exact .fail (fun h => absurd h (he rfl)) hf.keepsFlags
  · exact .goto hq hf.keepsFlags hf.pend

theorem seqCompute_movesOn (s : State) : OnlyMovesOn s (seqCompute s) := by
  unfold seqCompute
  cases decode s.cur with
  | error => exact .fault s _
  | ok i =>
    cases i
    case crc16 => exact .withBytes fun data => .goto (by decide) ⟨rfl, rfl, rfl, rfl, rfl⟩ rfl
    case build => exact .withBytes fun payload => seqFrame_movesOn _ _ _ payload (by decide) s
    case send => exact .withBytes fun payload => seqFrame_movesOn _ _ _ payload (by decide) s
    case reqsize => exact .goto (by decide) (.refl s) rfl
    case ctxset => exact .goto (by decide) (.refl s) rfl
    case encrypt =>
      simp only
      cases hq : requiredOutputSize s.ops.inlen.toNat (paddingOfBit s.ctx.pad) with
      | error e =>
        exact .fail (fun h => absurd h (requiredOutputSize_error_reportable hq)) (.refl s)
      | ok total =>
        refine .withBytes fun data => .goto ?_ ⟨rfl, rfl, rfl, rfl, rfl⟩ rfl
        split <;> decide
    case decrypt =>
      refine .goto ?_ (loadIv_frame s).keepsFlags rfl
      split <;> decide
    all_goals exact .fault s _

theorem seqBlkPre_movesOn (s : State) : OnlyMovesOn s (seqBlkPre s) := by
  unfold seqBlkPre
  cases decode s.cur with
  | error => exact .fault s _
  | ok i =>
    cases i
    case cryptblock => exact .withBytes fun x => seqFrame_movesOn _ _ _ x (by decide) s
    case encrypt => exact .withBytes fun b => seqFrame_movesOn _ _ _ (encInput b s) (by decide) s
    case decrypt => exact .withBytes fun c => seqFrame_movesOn _ _ _ c (by decide) s
    all_goals exact .fault s _

theorem seqTx_movesOn (s : State) : OnlyMovesOn s (seqTx s) := by
  unfold seqTx
  refine .withBytes fun f => ?_
  cases decode s.cur with
  | error => exact .fault s _
  | ok i =>
    cases i
    case send | cryptblock | encrypt | decrypt => exact .goto (by decide) ⟨rfl, rfl, rfl, rfl, rfl⟩ rfl
    all_goals exact .fault s _

theorem seqRxReq_movesOn (s : State) : OnlyMovesOn s (seqRxReq s) := by
  unfold seqRxReq
  split
  · exact .next (rxRequest_frame _ s).toKeepsBesideLoop.movesOn
  · exact .goto (by decide) (.refl s) rfl

theorem seqParse_movesOn (s : State) : OnlyMovesOn s (seqParse s) := by
  unfold seqParse
  refine .withBytes fun raw => ?_
  have hp := parseEffect_keeps raw s
  have hr := receiveEffect_keeps (seqExpected s) raw s
  cases decode s.cur with
  | error => exact .fault s _
  | ok i =>
    cases i
    case parse =>
      simp only
      cases ho : parseResponse s.cfg raw with
      | ok => exact .goto (by decide) hp.keepsFlags hp.pend
      | error e => exact .fail (fun h => absurd h (parseResponse_error_reportable ho)) hp.keepsFlags
    case receive =>
      simp only
      cases ho : receiveOutcome s.cfg (seqExpected s) raw with
      | ok => exact .goto (by decide) hr.keepsFlags hr.pend
      | error e => exact .fail (fun h => absurd h (receiveOutcome_error_reportable ho)) hr.keepsFlags
    case cryptblock | encrypt | decrypt =>
      simp only
      cases ho : receiveOutcome s.cfg (seqExpected s) raw with
      | ok => exact .goto (by decide) hr.keepsFlags hr.pend
      | error e => exact .classify (receiveOutcome_error_reportable ho) hr.keepsFlags
    all_goals exact .fault s _

theorem seqClassify_movesOn (s : State) : OnlyMovesOn s (seqClassify s) := by
  unfold seqClassify
  cases hp : s.pend with
  | none => exact .fault s _
  | some e =>
    refine .withBytes fun raw => .fail (fun he => ?_) (classifyEffect_keeps raw s).keepsFlags
    by_contra hne
    exact classify_reportable (cfg := s.cfg) (raw := raw) (fun h => hne (h ▸ hp)) he

theorem seqNextBlock_movesOn {s u : State} (total : Nat) {q : SeqState} (hq : q ≠ .sIdle) (h : KeepsBesideLoop s u) :
    OnlyMovesOn s (seqNextBlock total q u) := by
  unfold seqNextBlock
  split
  · exact .goto (by decide) h.keepsFlags h.pend
  · split
    · exact .goto hq h.keepsFlags h.pend
    · exact .fault s _

theorem seqBlkPost_movesOn (s : State) : OnlyMovesOn s (seqBlkPost s) := by
  unfold seqBlkPost
  cases decode s.cur with
  | error => exact .fault s _
  | ok i =>
    cases i
    case cryptblock => exact .goto (by decide) (.refl s) rfl
    case encrypt => exact .withBytes fun c => seqNextBlock_movesOn _ (by decide) (encStore_frame c s)
    case decrypt =>
      exact .withBytes fun d => .withBytes fun c => seqNextBlock_movesOn _ (by decide) (decStore_frame c d s)
    all_goals exact .fault s _

theorem seqUnpad_movesOn (s : State) : OnlyMovesOn s (seqUnpad s) := by
  unfold seqUnpad
  refine .withBytes fun d => ?_
  cases ho : removePadding (paddingOfBit s.ctx.pad) d with
  | error e => exact .fail (fun h => absurd h (removePadding_error_reportable ho)) ⟨rfl, rfl, rfl, rfl, rfl⟩
  | ok out => exact .goto (by decide) ⟨rfl, rfl, rfl, rfl, rfl⟩ rfl

theorem seqReleaseOut_movesOn (o : Option Bytes) (s : State) : OnlyMovesOn s (seqReleaseOut o s) :=
  .withBytes fun _ => .goto (by decide) ⟨rfl, rfl, rfl, rfl, rfl⟩ rfl

theorem seqRelease_movesOn (s : State) : OnlyMovesOn s (seqRelease s) := by
  unfold seqRelease
  cases decode s.cur with
  | error => exact .fault s _
  | ok i =>
    cases i
    case crc16 | send | ctxset => exact .goto (by decide) ⟨rfl, rfl, rfl, rfl, rfl⟩ rfl
    case reqsize =>
      simp only
      cases hq : requiredOutputSize s.ops.inlen.toNat (paddingOfBit s.ops.pPad) with
      | ok n => exact .goto (by decide) ⟨rfl, rfl, rfl, rfl, rfl⟩ rfl
      | error e => exact .fail (fun h => absurd h (requiredOutputSize_error_reportable hq)) (.refl s)
    all_goals exact seqReleaseOut_movesOn _ s

/-- All that a transition can do to the flags: move on with them, write the error of `S_FAIL`, or finish. -/
theorem seqStep_cases {s t : State} (h : seqStep s = .next t) :
    MovesOn s t ∨ (∃ e, s.pend = some e ∧ t = seqGoto .sFinish (writeError e s)) ∨ t = finishCommand s := by
  unfold seqStep at h
  cases hq : s.seq <;> simp only [hq] at h
  case sIdle => cases h; exact .inl (KeepsBesideLoop.refl s).movesOn
  case sValidate => exact .inl (seqValidate_movesOn s t h)
  case sCompute => exact .inl (seqCompute_movesOn s t h)
  case sBlkPre => exact .inl (seqBlkPre_movesOn s t h)
  case sWake =>
    exact .inl (OnlyMovesOn.goto (s := s) (u := busWake s) (by decide) ⟨rfl, rfl, rfl, rfl, rfl⟩ rfl t h)
  case sTx => exact .inl (seqTx_movesOn s t h)
  case sExec =>
    exact .inl (OnlyMovesOn.goto (s := s) (u := rxStart (busExecWait s)) (by decide)
      ⟨rfl, rfl, rfl, rfl, rfl⟩ rfl t h)
  case sRxReq => exact .inl (seqRxReq_movesOn s t h)
  case sGoIdle =>
    exact .inl (OnlyMovesOn.goto (s := s) (u := busIdle s) (by decide) ⟨rfl, rfl, rfl, rfl, rfl⟩ rfl t h)
  case sParse => exact .inl (seqParse_movesOn s t h)
  case sClassify => exact .inl (seqClassify_movesOn s t h)
  case sBlkPost => exact .inl (seqBlkPost_movesOn s t h)
  case sUnpad => exact .inl (seqUnpad_movesOn s t h)
  case sRelease => exact .inl (seqRelease_movesOn s t h)
  case sFail =>
    unfold seqFailStep at h
    cases hp : s.pend with
    | none => simp [hp] at h
    | some e =>
      simp only [hp, Host.Outcome.next.injEq] at h
      exact .inr (.inl ⟨e, rfl, h.symm⟩)
  case sFinish => cases h; exact .inr (.inr rfl)

/-! ## The invariant -/

/-- The error registers agree with each other (R17, R170). -/
structure ErrAgree (s : State) : Prop where
  errf : s.errf = true ↔ s.err ≠ 0
  code : s.err ∈ errCodes
  device : s.devstat ≠ 0 ↔ s.err = 0x10

/-- `FlagsAgree`, taken apart. -/
theorem flagsAgree_iff (s : State) :
    s.FlagsAgree ↔ ((s.busy = true ↔ s.seq ≠ .sIdle) ∧ (s.done = true → s.busy = false)) ∧ ErrAgree s ∧
      s.pend ≠ some (.deviceError 0) := by
  constructor
  · rintro ⟨hbusy, hdone, herrf, hcode, hdev, hpend⟩
    exact ⟨⟨hbusy, hdone⟩, ⟨herrf, hcode, hdev⟩, fun h => hpend 0 h rfl⟩
  · rintro ⟨⟨hbusy, hdone⟩, ⟨herrf, hcode, hdev⟩, hpend⟩
    exact ⟨hbusy, hdone, herrf, hcode, hdev, fun b hb h0 => hpend (h0 ▸ hb)⟩

theorem ErrAgree.of_keepsFlags {s t : State} (h : KeepsFlags s t) (hs : ErrAgree s) : ErrAgree t := by
  obtain ⟨herrf, hcode, hdev⟩ := hs
  exact ⟨by rw [h.errf, h.err]; exact herrf, by rw [h.err]; exact hcode, by rw [h.devstat, h.err]; exact hdev⟩

/-- No error in `ERR`, none in `ERRF` and `DEVSTAT`. -/
theorem ErrAgree.of_noError {s : State} (hf : s.errf = false) (he : s.err = 0) (hd : s.devstat = 0) : ErrAgree s :=
  ⟨by simp [hf, he], by simp [he, errCodes], by simp [hd, he]⟩

/-- What `S_FAIL` writes agrees, when the error can be reported. -/
theorem writeError_errAgree {e : Err} (he : e.Reportable) (s : State) : ErrAgree (writeError e s) := by
  cases e
  case deviceError b =>
    exact ⟨by simp [errCode], by simp [errCode, errCodes],
      by simpa [errCode, errDevstat, Err.Reportable] using he⟩
  all_goals exact ⟨by simp [errCode], by simp [errCode, errCodes], by simp [errCode, errDevstat]⟩

/-- A completion needs only the error registers to agree. -/
theorem finishCommand_flagsAgree {s : State} (h : ErrAgree s) : (finishCommand s).FlagsAgree := by
  rw [flagsAgree_iff]
  exact ⟨by simp, ⟨by simpa using h.errf, by simpa using h.code, by simpa using h.device⟩, by simp⟩

theorem errorCompletion_flagsAgree {e : Err} (he : e.Reportable) (s : State) : (errorCompletion e s).FlagsAgree :=
  finishCommand_flagsAgree (writeError_errAgree he s)

theorem startCommand_flagsAgree (v : Byte) (s : State) : (startCommand v s).FlagsAgree := by
  rw [flagsAgree_iff]
  exact ⟨by simp, .of_noError rfl rfl rfl, by simp⟩

/-- The state a release writes, with no error reported, completes with the flags agreeing. -/
theorem Release.apply_errAgree {s : State} (h : ErrAgree s) (r : Release) : ErrAgree (r.apply s) := by
  cases r <;> exact .of_keepsFlags (s := s) ⟨rfl, rfl, rfl, rfl, rfl⟩ h

/-- Every completion of a command leaves the flags agreeing. -/
theorem exec_flagsAgree {i : Instr} {s t : State} (h : exec i s = .next t) : t.FlagsAgree := by
  obtain ⟨⟨o, u⟩, hp, rfl⟩ := exec_next_sound h
  cases o with
  | error e => exact errorCompletion_flagsAgree (hp.error e rfl) _
  | ok r => exact finishCommand_flagsAgree (r.apply_errAgree (.of_noError hp.frame.errf hp.frame.err hp.frame.devstat))

theorem runCommand_flagsAgree {v : Byte} {s t : State} (h : runCommand v s = .next t) : t.FlagsAgree := by
  unfold runCommand at h
  split at h
  · exact exec_flagsAgree h
  · cases h
    exact errorCompletion_flagsAgree (by simp [Err.Reportable]) _

theorem MovesOn.flagsAgree {s t : State} (h : MovesOn s t) (hs : s.FlagsAgree) (hrun : s.seq ≠ .sIdle) :
    t.FlagsAgree := by
  obtain ⟨⟨hbusy, hdone⟩, herr, hpend⟩ := (flagsAgree_iff s).1 hs
  refine (flagsAgree_iff t).2 ⟨⟨?_, ?_⟩, .of_keepsFlags h.toKeepsFlags herr, fun hp => hpend (h.pend hp)⟩
  · rw [h.busy]
    exact iff_of_true (hbusy.2 hrun) fun ht => hrun (h.seq ht)
  · rw [h.busy, h.done]
    exact hdone

/-- A transition keeps the invariant. -/
theorem seqStep_flagsAgree {s t : State} (hs : s.FlagsAgree) (h : seqStep s = .next t) : t.FlagsAgree := by
  by_cases hidle : s.seq = .sIdle
  · simp only [seqStep, hidle, Host.Outcome.next.injEq] at h
    exact h ▸ hs
  obtain ⟨⟨hbusy, hdone⟩, herr, hpend⟩ := (flagsAgree_iff s).1 hs
  rcases seqStep_cases h with hm | ⟨e, he, rfl⟩ | rfl
  · exact hm.flagsAgree hs hidle
  · have hwritten : ErrAgree (writeError e s) := writeError_errAgree (fun h0 => hpend (h0 ▸ he)) s
    have herr' : ErrAgree (seqGoto .sFinish (writeError e s)) :=
      .of_keepsFlags (s := writeError e s) ⟨rfl, rfl, rfl, rfl, rfl⟩ hwritten
    exact (flagsAgree_iff _).2 ⟨⟨iff_of_true (hbusy.2 hidle) (by simp), hdone⟩, herr', hpend⟩
  · exact finishCommand_flagsAgree herr

theorem writeRegNumber_flagsAgree {s : State} (hs : s.FlagsAgree) (n : Byte) (v : Word128) :
    (writeRegNumber n v s).FlagsAgree := by
  unfold writeRegNumber
  split
  · exact hs
  · split
    · exact hs
    · exact startCommand_flagsAgree _ s
    · exact hs

theorem writeInbuf_flagsAgree {s t : State} (hs : s.FlagsAgree) {off : Nat} {bytes : Bytes}
    (h : writeInbuf off bytes s = .next t) : t.FlagsAgree := by
  unfold writeInbuf at h
  repeat' split at h
  all_goals cases h
  all_goals exact hs

theorem hostReadInbuf_flagsAgree {s t : State} (hs : s.FlagsAgree) {off n : Nat}
    (h : hostReadInbuf off n s = .next t) : t.FlagsAgree := by
  unfold hostReadInbuf at h
  repeat' split at h
  all_goals cases h
  all_goals exact hs

theorem hostReadOutbuf_flagsAgree {s t : State} (hs : s.FlagsAgree) {off n : Nat}
    (h : hostReadOutbuf off n s = .next t) : t.FlagsAgree := by
  unfold hostReadOutbuf at h
  repeat' split at h
  all_goals cases h
  all_goals exact hs

theorem resetBlock_flagsAgree (s : State) : (resetBlock s).FlagsAgree := by
  rw [flagsAgree_iff]
  exact ⟨by simp [resetBlock, State.resetWith], .of_noError rfl rfl rfl, by simp [resetBlock, State.resetWith]⟩

/-- Every action of the host keeps the invariant; taking it from the queue changes no flag. -/
theorem hostAct_flagsAgree {s t : State} {a : HostAction} {rest : List HostAction} (hs : s.FlagsAgree)
    (h : hostAct a rest s = .next t) : t.FlagsAgree := by
  have hrest : (setHostq rest s).FlagsAgree := hs
  cases a with
  | cmd v =>
    simp only [hostAct] at h
    split at h
    · cases h; exact hs
    · exact runCommand_flagsAgree h
  | wr n v => cases h; exact writeRegNumber_flagsAgree hrest n v
  | rd n => cases h; exact hs
  | wrIn off bytes => exact writeInbuf_flagsAgree hrest h
  | rdIn off n => exact hostReadInbuf_flagsAgree hrest h
  | rdOut off n => exact hostReadOutbuf_flagsAgree hrest h
  | wait =>
    simp only [hostAct] at h
    split at h
    · exact seqStep_flagsAgree hs h
    · cases h; exact hs
  | tick => exact seqStep_flagsAgree hrest h
  | rst => cases h; exact resetBlock_flagsAgree _

/-- Settles O54: a step is a transition of the sequencer or an action of the host. -/
theorem stepKeepsFlagsAgreeing : Obligations.StepKeepsFlagsAgreeing := by
  intro s t hs h
  cases hq : s.hostq with
  | nil => exact seqStep_flagsAgree hs (step_of_idle_host hq ▸ h)
  | cons a rest => exact hostAct_flagsAgree hs (step_of_hostAct hq ▸ h)

/-- Settles O55: the reset state is idle and reports no error. -/
theorem resetFlagsAgree : Obligations.ResetFlagsAgree :=
  (flagsAgree_iff _).2 ⟨by simp [State.reset, State.resetWith], .of_noError rfl rfl rfl,
    by simp [State.reset, State.resetWith]⟩

end Sys2Proof.Machine

/-! # What a command reports does not depend on the hidden registers: O39

`eraseHidden` forgets what R24 calls hidden. Two states are visibly the same when they agree after the forgetting; every
operation a command is made of keeps this relation, those that write hidden registers alone because the forgetting undoes
them, the others because they commute with it. The loops need one thing more: the receive loop starts from `RXCNT = 0`, and
the block loops start, in CBC, from `CV = CTX_IV`. -/

namespace Sys2Proof.Machine

/-- The state without the hidden registers of R20 to R23, and without the queue and the read record of the model. -/
def eraseHidden (s : State) : State :=
  { s with
    crcreg := 0, txbuf := [], txlen := 0, rxbuf := [], rxcnt := 0, attempts := 0, cv := 0, work := [], worklen := 0,
    hostq := [], reads := [] }

/-- Nothing outside the hidden registers tells the two states apart. -/
def SameVisible (s s' : State) : Prop := eraseHidden s = eraseHidden s'

/-- The same answer, and states that are visibly the same. -/
def SameAnswer {α : Type} (p q : α × State) : Prop := p.1 = q.1 ∧ SameVisible p.2 q.2

section
variable {s s' : State}

/-! ## What two visibly equal states have in common -/

theorem SameVisible.cfg (h : SameVisible s s') : s'.cfg = s.cfg := (congrArg State.cfg h).symm

theorem SameVisible.ops (h : SameVisible s s') : s'.ops = s.ops := (congrArg State.ops h).symm

theorem SameVisible.ctx (h : SameVisible s s') : s'.ctx = s.ctx := (congrArg State.ctx h).symm

theorem SameVisible.blk (h : SameVisible s s') : s'.blk = s.blk := (congrArg State.blk h).symm

theorem SameVisible.readInbuf (h : SameVisible s s') (off n : Nat) :
    Machine.readInbuf off n s' = Machine.readInbuf off n s :=
  (congrArg (Machine.readInbuf off n) h).symm

theorem SameVisible.busAnswer (h : SameVisible s s') (n : Nat) : Machine.busAnswer n s' = Machine.busAnswer n s :=
  (congrArg (Machine.busAnswer n) h).symm

theorem SameVisible.validate (h : SameVisible s s') (i : Instr) : Machine.validate i s' = Machine.validate i s := by
  have herase : ∀ u, Machine.validate i (eraseHidden u) = Machine.validate i u := fun u => by cases i <;> rfl
  rw [← herase s, ← herase s', h]

theorem SameVisible.agreeOnResults (h : SameVisible s s') : AgreeOnResults s s' :=
  have field {α : Type} (f : State → α) (hf : ∀ u, f (eraseHidden u) = f u) : f s' = f s := by
    rw [← hf s, ← hf s', h]
  ⟨⟨h.cfg, h.ops, h.ctx, field (·.ctxValid) fun _ => rfl, field (·.inbuf) fun _ => rfl, field (·.outbuf) fun _ => rfl,
      field (·.trace) fun _ => rfl, field (·.answers) fun _ => rfl, field (·.era) fun _ => rfl⟩,
    field (·.busy) fun _ => rfl, field (·.done) fun _ => rfl, field (·.errf) fun _ => rfl, field (·.err) fun _ => rfl,
    field (·.devstat) fun _ => rfl, field (·.outlen) fun _ => rfl, field (·.crcout) fun _ => rfl⟩

/-! ## The operations that write hidden registers only -/

theorem eraseHidden_setCrcreg (r : Word16) (s : State) : eraseHidden (setCrcreg r s) = eraseHidden s := rfl

theorem eraseHidden_storeFrame (op p1 : Byte) (p2 : Word16) (payload : Bytes) (s : State) :
    eraseHidden (storeFrame op p1 p2 payload s) = eraseHidden s := rfl

theorem eraseHidden_parseEffect (raw : Bytes) (s : State) : eraseHidden (parseEffect raw s) = eraseHidden s := by
  obtain ⟨r, h⟩ := parseEffect_frame raw s
  rw [h, eraseHidden_setCrcreg]

theorem eraseHidden_receiveEffect (e : Nat) (raw : Bytes) (s : State) :
    eraseHidden (receiveEffect e raw s) = eraseHidden s := by
  obtain ⟨r, h⟩ := receiveEffect_frame e raw s
  rw [h, eraseHidden_setCrcreg]

theorem eraseHidden_classifyEffect (raw : Bytes) (s : State) : eraseHidden (classifyEffect raw s) = eraseHidden s := by
  obtain ⟨r, h⟩ := classifyEffect_frame raw s
  rw [h, eraseHidden_setCrcreg]

/-- Hidden effects on both sides do not tell the states apart. -/
theorem SameVisible.hidden (h : SameVisible s s') {f g : State → State} (hf : ∀ u, eraseHidden (f u) = eraseHidden u)
    (hg : ∀ u, eraseHidden (g u) = eraseHidden u) : SameVisible (f s) (g s') :=
  (hf s).trans (h.trans (hg s').symm)

/-- An operation that commutes with the forgetting keeps the relation. -/
theorem SameVisible.map (h : SameVisible s s') {f : State → State}
    (hf : ∀ u, eraseHidden (f (eraseHidden u)) = eraseHidden (f u)) : SameVisible (f s) (f s') := by
  unfold SameVisible
  rw [← hf s, ← hf s', h]

/-! ## The transport -/

theorem rxRequest_visible (h : SameVisible s s') (hc : s'.rxcnt = s.rxcnt) (e : Nat) :
    SameVisible (rxRequest e s) (rxRequest e s') ∧ (rxRequest e s').rxcnt = (rxRequest e s).rxcnt := by
  simp only [rxRequest, hc, h.busAnswer]
  exact ⟨(h.map (f := busReadEffect _) fun _ => rfl).hidden (fun _ => rfl) fun _ => rfl, by simp [hc]⟩

theorem rxLoop_visible (e fuel : Nat) (got : Bytes) (h : SameVisible s s') (hc : s'.rxcnt = s.rxcnt) :
    SameAnswer (rxLoop e fuel got s) (rxLoop e fuel got s') := by
  induction fuel generalizing got s s' with
  | zero => exact ⟨rfl, h⟩
  | succ fuel ih =>
    obtain ⟨hr, hrc⟩ := rxRequest_visible h hc e
    simp only [rxLoop, hc, h.busAnswer]
    split
    · exact ih _ hr hrc
    · exact ⟨rfl, h⟩

theorem collect_visible (h : SameVisible s s') (e : Nat) : SameAnswer (collect e s) (collect e s') := by
  have hstart : SameVisible (rxStart s) (rxStart s') := h.hidden (fun _ => rfl) fun _ => rfl
  obtain ⟨hgot, hend⟩ := rxLoop_visible e Param.retryBudget [] hstart rfl
  exact ⟨hgot, hend.map (f := busIdle) fun _ => rfl⟩

theorem receive_visible (h : SameVisible s s') (e : Nat) : SameAnswer (receive e s) (receive e s') := by
  obtain ⟨hgot, hend⟩ := collect_visible h e
  simp only [receive, h.cfg, hgot]
  exact ⟨rfl, hend.hidden (eraseHidden_receiveEffect e _) (eraseHidden_receiveEffect e _)⟩

theorem buildCommandFrame_visible (h : SameVisible s s') (op p1 : Byte) (p2 : Word16) (payload : Bytes) :
    SameAnswer (buildCommandFrame op p1 p2 payload s) (buildCommandFrame op p1 p2 payload s') := by
  unfold buildCommandFrame
  rw [h.cfg]
  split
  · exact ⟨rfl, h⟩
  · exact ⟨rfl, h.hidden (eraseHidden_storeFrame op p1 p2 payload) (eraseHidden_storeFrame op p1 p2 payload)⟩

/-- The two sides of a relation between answers, taken apart. -/
theorem SameAnswer.exists {α : Type} {p q : α × State} (h : SameAnswer p q) :
    ∃ o t t', p = (o, t) ∧ q = (o, t') ∧ SameVisible t t' :=
  ⟨p.1, p.2, q.2, rfl, by rw [h.1], h.2⟩

theorem send_visible (h : SameVisible s s') (op p1 : Byte) (p2 : Word16) (payload : Bytes) :
    SameAnswer (send op p1 p2 payload s) (send op p1 p2 payload s') := by
  obtain ⟨o, t, t', hp, hq, ht⟩ := (buildCommandFrame_visible h op p1 p2 payload).exists
  simp only [send, hp, hq]
  cases o with
  | error e => exact ⟨rfl, ht⟩
  | ok f => exact ⟨rfl, ht.map (f := fun u => busWrite f (busWake u)) fun _ => rfl⟩

/-! ## One block -/

theorem cryptBlock_visible (h : SameVisible s s') (x : Bytes) (slot key : Byte) (dir : Direction) :
    SameAnswer (cryptBlock x slot key dir s) (cryptBlock x slot key dir s') := by
  unfold cryptBlock
  cases firstError (keyChecks slot key) with
  | some e => exact ⟨rfl, h⟩
  | none =>
    obtain ⟨o, t, t', hp, hq, ht⟩ := (send_visible h s.cfg.aesOpcode (modeByte key dir) (slot.setWidth 16) x).exists
    simp only [h.cfg, hp, hq]
    cases o with
    | error e => exact ⟨rfl, ht⟩
    | ok _ =>
      have hwait : SameVisible (busExecWait t) (busExecWait t') := ht.map (f := busExecWait) fun _ => rfl
      obtain ⟨raw, u, u', hp, hq, hu⟩ := (collect_visible hwait Param.cryptRespLen).exists
      simp only [hp, hq]
      have hparsed := hu.hidden (eraseHidden_receiveEffect Param.cryptRespLen raw)
        (eraseHidden_receiveEffect Param.cryptRespLen raw)
      cases receiveOutcome s.cfg Param.cryptRespLen raw with
      | ok p => exact ⟨rfl, hparsed⟩
      | error e => exact ⟨rfl, hparsed.hidden (eraseHidden_classifyEffect raw) (eraseHidden_classifyEffect raw)⟩

/-! ## The block loops -/

/-- In a block loop the chaining variable matters as well, in CBC. -/
structure SameInLoop (s s' : State) : Prop where
  visible : SameVisible s s'
  cv : modeOfBit s.ctx.mode = .cbc → s'.cv = s.cv

/-- A block leaves the chaining variable alone. -/
theorem SameInLoop.cryptBlock (h : SameInLoop s s') {x : Bytes} {slot key : Byte} {dir : Direction} :
    ∃ o t t', cryptBlock x slot key dir s = (o, t) ∧ cryptBlock x slot key dir s' = (o, t') ∧ SameInLoop t t' := by
  obtain ⟨o, t, t', hp, hq, ht⟩ := (cryptBlock_visible h.visible x slot key dir).exists
  have hf := cryptBlock_frame x slot key dir s
  have hf' := cryptBlock_frame x slot key dir s'
  rw [hp] at hf
  rw [hq] at hf'
  exact ⟨o, t, t', hp, hq, ht, fun hm => by rw [hf'.cv, hf.cv, h.cv (hf.ctx ▸ hm)]⟩

theorem SameInLoop.encInput (h : SameInLoop s s') (b : Bytes) : encInput b s' = encInput b s := by
  unfold Machine.encInput
  rw [h.visible.ctx]
  cases hm : modeOfBit s.ctx.mode with
  | ecb => rfl
  | cbc => rw [h.cv hm]

theorem SameInLoop.decOutput (h : SameInLoop s s') (d : Bytes) : decOutput d s' = decOutput d s :=
  h.encInput d

theorem SameInLoop.encStore (h : SameInLoop s s') (c : Bytes) : SameInLoop (encStore c s) (encStore c s') where
  visible := h.visible.map (f := Machine.encStore c) fun _ => rfl
  cv hm := by
    have hm' : modeOfBit s.ctx.mode = .cbc := hm
    simp only [encStore_cv, h.visible.ctx, hm']

theorem SameInLoop.decStore (h : SameInLoop s s') (c d : Bytes) : SameInLoop (decStore c d s) (decStore c d s') where
  visible := h.visible.map (f := Machine.decStore c d) fun _ => rfl
  cv hm := by
    have hm' : modeOfBit s.ctx.mode = .cbc := hm
    simp only [decStore_cv, h.visible.ctx, hm']

theorem SameVisible.loadWork (h : SameVisible s s') (data : Bytes) : SameInLoop (loadWork data s) (loadWork data s') where
  visible := h.hidden (fun _ => rfl) fun _ => rfl
  cv hm := by
    have hm' : modeOfBit s.ctx.mode = .cbc := hm
    simp only [loadWork_cv, h.ctx, hm']

theorem SameVisible.loadIv (h : SameVisible s s') : SameInLoop (loadIv s) (loadIv s') where
  visible := h.hidden (fun _ => rfl) fun _ => rfl
  cv hm := by
    have hm' : modeOfBit s.ctx.mode = .cbc := hm
    simp only [loadIv_cv, h.ctx, hm']

theorem encBlocks_visible (bs : List Bytes) (h : SameInLoop s s') : SameAnswer (encBlocks bs s) (encBlocks bs s') := by
  induction bs generalizing s s' with
  | nil => exact ⟨rfl, h.visible⟩
  | cons b bs ih =>
    obtain ⟨o, t, t', hp, hq, ht⟩ := h.cryptBlock (x := encInput b s) (slot := s.ctx.slot) (key := s.ctx.keyIdx)
      (dir := .encrypt)
    simp only [encBlocks, h.encInput, h.visible.ctx, hp, hq]
    cases o with
    | error e => exact ⟨rfl, ht.visible⟩
    | ok c =>
      obtain ⟨o, u, u', hp, hq, hu⟩ := (ih (ht.encStore c)).exists
      simp only [hp, hq]
      cases o <;> exact ⟨rfl, hu⟩

/-- The block loop of DECRYPT ends the same way, in states visibly the same. -/
inductive DecResult.Same : DecResult → DecResult → Prop where
  | done {p : Bytes} {s s' : State} (h : SameVisible s s') : Same (.done p s) (.done p s')
  | failed {e : Err} {s s' : State} (h : SameVisible s s') : Same (.failed e s) (.failed e s')
  | unwritten : Same .unwritten .unwritten

theorem decBlocks_visible (n : Nat) (got : Bytes) (h : SameInLoop s s') :
    DecResult.Same (decBlocks n got s) (decBlocks n got s') := by
  induction n generalizing got s s' with
  | zero => exact .done h.visible
  | succ n ih =>
    simp only [decBlocks, h.visible.blk, h.visible.readInbuf, h.visible.ctx]
    cases readInbuf (16 * s.blk) 16 s with
    | none => exact .unwritten
    | some c =>
      obtain ⟨o, t, t', hp, hq, ht⟩ := h.cryptBlock (x := c) (slot := s.ctx.slot) (key := s.ctx.keyIdx)
        (dir := .decrypt)
      simp only [hp, hq]
      cases o with
      | error e => exact .failed ht.visible
      | ok d =>
        simp only [ht.decOutput]
        exact ih _ (ht.decStore c d)

/-! ## The attempts and the completions -/

theorem SameAnswer.map {α β : Type} {o o' : Except Err α} {t t' : State} (f : α → β)
    (h : SameAnswer (o, t) (o', t')) : SameAnswer (o.map f, t) (o'.map f, t') :=
  ⟨congrArg (Except.map f) h.1, h.2⟩

/-- Reading the same bytes and going on the same way. -/
theorem sameAttempt_map {o : Option Bytes} {f g : Bytes → Attempt} (h : ∀ bs, SameAnswer (f bs) (g bs)) :
    Option.Rel SameAnswer (o.map f) (o.map g) := by
  cases o with
  | none => exact .none
  | some bs => exact .some (h bs)

theorem decryptAttempt_visible (p : Padding) {r r' : DecResult} (h : DecResult.Same r r') :
    Option.Rel SameAnswer (decryptAttempt p r) (decryptAttempt p r') := by
  cases h with
  | done h => exact .some ⟨rfl, h.hidden (fun _ => rfl) fun _ => rfl⟩
  | failed h => exact .some ⟨rfl, h⟩
  | unwritten => exact .none

theorem attemptChecked_visible (i : Instr) (h : SameVisible s s') :
    Option.Rel SameAnswer (attemptChecked i s) (attemptChecked i s') := by
  cases i <;> simp only [attemptChecked, h.ops, h.cfg, h.ctx, h.readInbuf]
  case crc16 => exact sameAttempt_map fun data => ⟨rfl, h⟩
  case build => exact sameAttempt_map fun payload => (buildCommandFrame_visible h _ _ _ payload).map _
  case parse =>
    refine sameAttempt_map fun raw => ⟨rfl, ?_⟩
    exact h.hidden (f := fun u => parseEffect raw (rxLoad raw u)) (g := fun u => parseEffect raw (rxLoad raw u))
      (fun _ => eraseHidden_parseEffect raw _) fun _ => eraseHidden_parseEffect raw _
  case send => exact sameAttempt_map fun payload => (send_visible h _ _ _ payload).map _
  case receive => exact .some ((receive_visible h _).map _)
  case cryptblock => exact sameAttempt_map fun x => (cryptBlock_visible h x _ _ _).map _
  case reqsize => exact .some ⟨rfl, h⟩
  case ctxset => exact .some ⟨rfl, h⟩
  case encrypt =>
    cases requiredOutputSize s.ops.inlen.toNat (paddingOfBit s.ctx.pad) with
    | error e => exact .some ⟨rfl, h⟩
    | ok total =>
      refine sameAttempt_map fun data => ?_
      simp only [encryptAttempt, h.ctx]
      exact (encBlocks_visible _ (h.loadWork _)).map _
  case decrypt => exact decryptAttempt_visible _ (decBlocks_visible _ [] h.loadIv)

theorem attempt_visible (i : Instr) (h : SameVisible s s') :
    Option.Rel SameAnswer (attempt i s) (attempt i s') := by
  cases hv : validate i s with
  | some e =>
    rw [attempt_of_invalid hv, attempt_of_invalid (h.validate i ▸ hv)]
    exact .some ⟨rfl, h⟩
  | none =>
    rw [attempt_of_valid hv, attempt_of_valid (h.validate i ▸ hv)]
    exact attemptChecked_visible i h

/-- The end of a command clears hidden registers and sets the flags. -/
theorem SameVisible.finishCommand (h : SameVisible s s') : SameVisible (finishCommand s) (finishCommand s') := by
  have hfinish : ∀ u, eraseHidden (Machine.finishCommand u) = markDone (eraseHidden u) := fun u => by
    unfold Machine.finishCommand
    split <;> rfl
  unfold SameVisible
  rw [hfinish, hfinish, h]

theorem SameVisible.apply (h : SameVisible s s') (r : Release) : SameVisible (r.apply s) (r.apply s') :=
  h.map fun _ => by cases r <;> rfl

theorem complete_visible (i : Instr) {p q : Attempt} (h : SameAnswer p q) :
    SameVisible (complete i p) (complete i q) := by
  obtain ⟨o, t, t', rfl, rfl, ht⟩ := h.exists
  cases o with
  | error e =>
    have hctx : SameVisible (if i = .ctxset then setCtxValid false t else t)
        (if i = .ctxset then setCtxValid false t' else t') := by
      split
      · exact ht.map (f := setCtxValid false) fun _ => rfl
      · exact ht
    exact (hctx.map (f := writeError e) fun _ => rfl).finishCommand
  | ok r => exact (ht.apply r).finishCommand

/-- What the start of a command leaves unequal is hidden. -/
theorem startCommand_visible (h : AgreeOnPersistent s s') (v : Byte) :
    SameVisible (startCommand v s) (startCommand v s') := by
  obtain ⟨hcfg, hops, hctx, hvalid, hin, hout, htrace, hans, hera⟩ := h
  simp only [SameVisible, eraseHidden, startCommand, hcfg, hops, hctx, hvalid, hin, hout, htrace, hans, hera]

end

/-- Settles O39: start, attempt and completion each keep two states visibly the same. -/
theorem hiddenStateNeverLeaks : Obligations.HiddenStateNeverLeaks := by
  intro i s s' t hagree h
  obtain ⟨p, hp, rfl⟩ := exec_next h
  have hrel := attempt_visible i (startCommand_visible hagree (encode i))
  rw [hp] at hrel
  cases hq : attempt i (startCommand (encode i) s') with
  | none => rw [hq] at hrel; cases hrel
  | some q =>
    rw [hq] at hrel
    obtain ⟨hpq⟩ := hrel
    exact ⟨complete i q, by rw [exec_eq_attempt, hq]; rfl, (complete_visible i hpq).agreeOnResults⟩

end Sys2Proof.Machine

/-! # Input bytes without a value: O40

Six commands read their input at once; DECRYPT reads block after block, so that its blocks before the unwritten one have
to come back first. What a scripted device answers is followed through the receive loop, one block and the block loop. -/

namespace Sys2Proof.Machine

/-! ## A device that answers by script -/

/-- The receive loop takes exactly the scripted chunks that complete it (R113, R121). -/
theorem rxLoop_scripted {e : Nat} {cs rest : List Bytes} {fuel : Nat} {got : Bytes} {s : State}
    (hfit : chunksFit (e - got.length) cs) (hfuel : cs.length ≤ fuel) (hcnt : s.rxcnt = got.length)
    (hans : s.answers = cs ++ rest) :
    (rxLoop e fuel got s).1 = got ++ cs.flatten ∧ (rxLoop e fuel got s).2.answers = rest := by
  induction cs generalizing fuel got s with
  | nil =>
    have hdone : ¬ s.rxcnt < e := by simp only [chunksFit] at hfit; omega
    cases fuel <;> simpa [rxLoop, hdone] using hans
  | cons c cs ih =>
    obtain ⟨hpos, hlen, hfit⟩ := hfit
    obtain _ | fuel := fuel
    · simp at hfuel
    have hmore : s.rxcnt < e := by omega
    have hc : busAnswer (chunkSize e s.rxcnt) s = c :=
      busAnswer_of_scripted (by simpa using hans) (by simpa [chunkSize, Param.chunkMax, hcnt] using hlen)
    simp only [rxLoop, hmore, if_true, hc]
    have hcnt' : (rxRequest e s).rxcnt = (got ++ c).length := by
      have hrx : (rxRequest e s).rxcnt = s.rxcnt + (busAnswer (chunkSize e s.rxcnt) s).length := rfl
      rw [hrx, hc, hcnt, List.length_append]
    have hstep := ih (fuel := fuel) (got := got ++ c) (s := rxRequest e s)
      (by rwa [List.length_append, ← Nat.sub_sub]) (by simpa using hfuel) hcnt'
      (by simp [rxRequest, hans])
    simpa using hstep

/-- A receive whose chunks fit collects them and leaves the answers after them. -/
theorem collect_scripted {e : Nat} {cs rest : List Bytes} {s : State} (hfit : chunksFit e cs) (hlen : cs.length ≤ 20)
    (hans : s.answers = cs ++ rest) : (collect e s).1 = cs.flatten ∧ (collect e s).2.answers = rest :=
  rxLoop_scripted (got := []) (s := rxStart s) hfit hlen rfl hans

/-- A response frame parses back to its payload (R106). -/
theorem parseResponse_respFrame {cfg : Config} {p : Bytes} (h : p.length + 2 + cfg.countSelf.toNat < 256) :
    parseResponse cfg (respFrame cfg p) = .ok p := by
  have hcount : countOk cfg (respFrame cfg p) = true := by
    simp [respFrame, countOk]
    omega
  have hlen : (respFrame cfg p).length - 2 = (BitVec.ofNat 8 (p.length + 2 + cfg.countSelf.toNat) :: p).length := by
    simp
  have hsplit : respFrame cfg p = (BitVec.ofNat 8 (p.length + 2 + cfg.countSelf.toNat) :: p) ++
      crc16 (BitVec.ofNat 8 (p.length + 2 + cfg.countSelf.toNat) :: p) := rfl
  simp only [parseResponse, hcount, hlen]
  rw [hsplit, List.drop_left, List.take_left]
  simp

theorem receiveOutcome_respFrame {cfg : Config} {p : Bytes} (h : p.length = 16) :
    receiveOutcome cfg Param.cryptRespLen (respFrame cfg p) = .ok p := by
  have hbit := cfg.countSelf.toNat_le
  simp [receiveOutcome, Param.cryptRespLen, h, parseResponse_respFrame (cfg := cfg) (p := p) (by omega)]

/-- A block whose chunks bring `c` back comes back as `c`, and takes exactly those answers (R132, R135). -/
theorem cryptBlock_answered {x c : Bytes} {slot key : Byte} {dir : Direction} {s : State} {ch rest : List Bytes}
    (hkey : firstError (keyChecks slot key) = none) (hx : x.length ≤ s.cfg.maxPayload) (hch : AnswersBlock s.cfg ch c)
    (hans : s.answers = ch ++ rest) :
    ∃ t, cryptBlock x slot key dir s = (.ok c, t) ∧ t.answers = rest := by
  obtain ⟨hc, hcount, hfit, hframe⟩ := hch
  rcases send_spec s.cfg.aesOpcode (modeByte key dir) (slot.setWidth 16) x s with ⟨hlong, _⟩ | ⟨_, hsend⟩
  · omega
  unfold cryptBlock
  simp only [hkey, hsend]
  generalize hu : busExecWait _ = u
  obtain ⟨hraw, hleft⟩ := collect_scripted (s := u) (rest := rest) hfit hcount
    (by rw [← hu]; simpa [storeFrame] using hans)
  obtain ⟨r, he⟩ := receiveEffect_frame Param.cryptRespLen (collect Param.cryptRespLen u).1
    (collect Param.cryptRespLen u).2
  have hraw' : (collect Param.cryptRespLen u).1 = respFrame s.cfg c := hraw.trans hframe
  rw [he, hraw', receiveOutcome_respFrame hc]
  exact ⟨_, rfl, hleft⟩

/-! ## The block loop of DECRYPT -/

/-- The loop is refused at the first block with an unwritten byte, when the blocks before it come back. -/
theorem decBlocks_unwritten {css : List (List Bytes)} {ds rest : List Bytes} {n : Nat} {got : Bytes} {s : State}
    (hkey : firstError (keyChecks s.ctx.slot s.ctx.keyIdx) = none) (hmax : 16 ≤ s.cfg.maxPayload)
    (hblocks : List.Forall₂ (AnswersBlock s.cfg) css ds) (hans : s.answers = css.flatten ++ rest)
    (hn : ds.length < n) (hread : ∀ j, j < ds.length → (readInbuf (16 * (s.blk + j)) 16 s).isSome = true)
    (hnone : readInbuf (16 * (s.blk + ds.length)) 16 s = none) : decBlocks n got s = .unwritten := by
  induction ds generalizing css n got s with
  | nil =>
    obtain ⟨n, rfl⟩ := Nat.exists_eq_succ_of_ne_zero (Nat.ne_zero_of_lt hn)
    simp only [List.length_nil, Nat.add_zero] at hnone
    simp only [decBlocks, hnone]
  | cons d ds ih =>
    obtain ⟨n, rfl⟩ := Nat.exists_eq_succ_of_ne_zero (Nat.ne_zero_of_lt hn)
    obtain ⟨ch, css, hd, hds, rfl⟩ := List.forall₂_cons_right_iff.1 hblocks
    obtain ⟨c, hc⟩ := Option.isSome_iff_exists.1 (hread 0 (by simp))
    rw [Nat.add_zero] at hc
    obtain ⟨t, ht, hleft⟩ := cryptBlock_answered (x := c) (dir := .decrypt) hkey
      (by rw [readBytes_length hc]; exact hmax) hd (by rw [hans, List.flatten_cons, List.append_assoc])
    have hf : KeepsBesideLink s t := by
      simpa only [ht] using cryptBlock_frame c s.ctx.slot s.ctx.keyIdx .decrypt s
    simp only [decBlocks, hc, ht]
    have hnext (j : Nat) : readInbuf (16 * ((decStore c d t).blk + j)) 16 (decStore c d t) =
        readInbuf (16 * (s.blk + (j + 1))) 16 s := by
      simp only [readInbuf, decStore_inbuf, decStore_blk, hf.inbuf, hf.blk]
      congr 1
      omega
    refine ih (css := css) ?_ ?_ ?_ hleft (by simpa using hn) (fun j hj => ?_) ?_
    · simpa [hf.ctx] using hkey
    · simpa [hf.cfg] using hmax
    · simpa [hf.cfg] using hds
    · rw [hnext]
      exact hread (j + 1) (by simpa using hj)
    · rw [hnext]
      exact hnone

/-! ## The checks and the reads -/

theorem firstError_eq_none_iff {l : List (Bool × Err)} : firstError l = none ↔ ∀ c ∈ l, c.1 = false := by
  induction l with
  | nil => simp [firstError]
  | cons c l ih => obtain ⟨_ | _, e⟩ := c <;> simp [firstError, ih]

/-- A length that passes the check of ENCRYPT has an output size. -/
theorem requiredOutputSize_of_not_sizeFails {n : Nat} {p : Padding} (h : sizeFails n p = false) :
    ∃ total, requiredOutputSize n p = .ok total := by
  unfold sizeFails at h
  split at h
  · exact ⟨_, by assumption⟩
  · cases h

/-- A range that can be read holds every smaller range. -/
theorem readBytes_isSome_of_subrange {m : Memory} {off n k l : Nat} (h : (m.readBytes off n).isSome = true)
    (hlo : off ≤ k) (hhi : k + l ≤ off + n) : (m.readBytes k l).isSome = true := by
  obtain ⟨bs, hbs⟩ := Option.isSome_iff_exists.1 h
  obtain ⟨hlen, hread⟩ := (readBytes_eq_some_iff _ _ _ _).1 hbs
  refine Option.isSome_iff_exists.2 ⟨(bs.drop (k - off)).take l, ?_⟩
  rw [readBytes_eq_some_iff]
  refine ⟨by simp; omega, fun j hj => ?_⟩
  rw [List.getElem?_take_of_lt hj, List.getElem?_drop, ← hread (k - off + j) (by omega)]
  congr 1
  omega

/-- A valid command whose attempt meets an unwritten byte is refused. -/
theorem exec_refused {i : Instr} {s : State} (hv : validate i s = none)
    (h : attemptChecked i (startCommand (encode i) s) = none) : exec i s = .refused .inbufUnwritten := by
  rw [exec_of_valid (by simpa using hv), h]
  rfl

/-- The commands that read `INBUF[0..INLEN)` at once. -/
theorem exec_refused_of_unwritten_input {i : Instr} {s : State}
    (hi : i = .crc16 ∨ i = .build ∨ i = .parse ∨ i = .send ∨ i = .encrypt) (hv : validate i s = none)
    (hread : readInbuf 0 s.ops.inlen.toNat s = none) : exec i s = .refused .inbufUnwritten := by
  refine exec_refused hv ?_
  have hstart : readInbuf 0 s.ops.inlen.toNat (startCommand (encode i) s) = none := hread
  rcases hi with rfl | rfl | rfl | rfl | rfl
  case inr.inr.inr.inr =>
    have hsize := firstError_eq_none_iff.1 hv
      (sizeFails s.ops.inlen.toNat (paddingOfBit s.ctx.pad), .invalidInputLength) (by simp)
    obtain ⟨total, htotal⟩ := requiredOutputSize_of_not_sizeFails hsize
    simp [attemptChecked, htotal, hstart]
  all_goals simp [attemptChecked, hstart]

/-- DECRYPT reads block after block. -/
theorem decrypt_refused_of_unwritten_block {s : State} {css : List (List Bytes)} {ds rest : List Bytes}
    (hlegal : s.cfg.Legal) (hv : validate .decrypt s = none) (hblocks : List.Forall₂ (AnswersBlock s.cfg) css ds)
    (hans : s.answers = css.flatten ++ rest) (hn : ds.length < s.ops.inlen.toNat / 16)
    (hread : (readInbuf 0 (16 * ds.length) s).isSome = true) (hnone : readInbuf (16 * ds.length) 16 s = none) :
    exec .decrypt s = .refused .inbufUnwritten := by
  refine exec_refused hv ?_
  have hkey : firstError (keyChecks s.ctx.slot s.ctx.keyIdx) = none :=
    firstError_eq_none_iff.2 fun c hc => firstError_eq_none_iff.1 hv c (List.mem_append_right _ hc)
  have hloop := decBlocks_unwritten (s := loadIv (startCommand (encode .decrypt) s)) (got := []) hkey
    (by simp [hlegal.1]) hblocks hans hn
    (fun j hj => readBytes_isSome_of_subrange hread (Nat.zero_le _) (by simp; omega))
    (by rw [← Nat.zero_add ds.length] at hnone; exact hnone)
  simp only [attemptChecked]
  rw [show (startCommand (encode .decrypt) s).ops = s.ops from rfl, hloop]
  rfl

/-- Settles O40: the reads at once by the checked attempt, DECRYPT by its block loop. -/
theorem unwrittenInputIsRefused : Obligations.UnwrittenInputIsRefused := by
  refine ⟨fun i s => exec_refused_of_unwritten_input, fun s hv hread => exec_refused hv ?_,
    fun s css ds rest => decrypt_refused_of_unwritten_block⟩
  have hstart : readInbuf 0 16 (startCommand (encode .cryptblock) s) = none := hread
  simp only [attemptChecked, hstart, Option.map_none]

end Sys2Proof.Machine

/-! # What every attempt keeps

An attempt is made of few single operations, each done within the bounds the checks of R173 grant. A property that survives
each of them survives every attempt: the inductions over the receive loop and the block loops stand here once. -/

namespace Sys2Proof.Machine

/-- `P` survives every single operation an attempt is made of, done within its bounds: a frame has a payload of at most
`MAX_PAYLOAD` (R100), a receive asks for at most `RX_CAP` bytes or for the response of one block (R114, R132) with at most
20 requests (R116), and what is stored in WORK lies below `BUF_CAP` (R147, R151). -/
structure SurvivesAttempt (P : State → Prop) : Prop where
  busWake : ∀ s, P s → P (busWake s)
  busWrite : ∀ f s, P s → P (busWrite f s)
  busExecWait : ∀ s, P s → P (busExecWait s)
  busIdle : ∀ s, P s → P (busIdle s)
  setCrcreg : ∀ r s, P s → P (setCrcreg r s)
  setTx : ∀ f s, f.length ≤ 8 + s.cfg.maxPayload → P s → P (setTx f s)
  rxStart : ∀ s, P s → P (rxStart s)
  rxRequest : ∀ e s, e ≤ max s.cfg.rxCap Param.cryptRespLen → s.rxcnt < e → s.attempts < Param.retryBudget → P s →
    P (rxRequest e s)
  rxLoad : ∀ raw s, raw.length ≤ s.cfg.rxCap → P s → P (rxLoad raw s)
  loadIv : ∀ s, P s → P (loadIv s)
  loadWork : ∀ data s, data.length ≤ s.cfg.bufCap → P s → P (loadWork data s)
  setWorklen : ∀ n s, n ≤ s.cfg.bufCap → P s → P (setWorklen n s)
  encStore : ∀ c s, c.length = 16 → 16 * (s.blk + 1) ≤ s.cfg.bufCap → P s → P (encStore c s)
  decStore : ∀ c d s, d.length = 16 → 16 * (s.blk + 1) ≤ s.cfg.bufCap → P s → P (decStore c d s)

/-! ## The checks, read as bounds (R173) -/

theorem capacityExceeded_eq_false {s : State} :
    capacityExceeded s = false ↔ s.ops.inlen.toNat ≤ s.cfg.bufCap ∧ s.ops.outcap.toNat ≤ s.cfg.bufCap := by
  simp [capacityExceeded]

theorem validateBuild_eq_none {s : State} :
    validateBuild s = none ↔ (s.ops.inlen.toNat ≤ s.cfg.bufCap ∧ s.ops.outcap.toNat ≤ s.cfg.bufCap) ∧
      s.ops.inlen.toNat ≤ s.cfg.maxPayload ∧ 8 + s.ops.inlen.toNat ≤ s.ops.outcap.toNat := by
  simp [validateBuild, firstError_eq_none_iff, capacityExceeded_eq_false]

theorem validateParse_eq_none {s : State} :
    validateParse s = none ↔ (s.ops.inlen.toNat ≤ s.cfg.rxCap ∧ s.ops.outcap.toNat ≤ s.cfg.bufCap) ∧
      (3 ≤ s.ops.inlen.toNat → s.ops.inlen.toNat - 3 ≤ s.ops.outcap.toNat) := by
  simp [validateParse, firstError_eq_none_iff]

theorem validateReceive_eq_none {s : State} :
    validateReceive s = none ↔ (s.ops.pExplen.toNat ≤ s.cfg.rxCap ∧ s.ops.outcap.toNat ≤ s.cfg.bufCap) ∧
      (3 ≤ s.ops.pExplen.toNat → s.ops.pExplen.toNat - 3 ≤ s.ops.outcap.toNat) := by
  simp [validateReceive, firstError_eq_none_iff]

/-- The bounds the checks of CRYPTBLOCK give. -/
theorem validateCryptblock_bounds {s : State} (h : validateCryptblock s = none) :
    s.ops.outcap.toNat ≤ s.cfg.bufCap ∧ 16 ≤ s.ops.outcap.toNat := by
  have hcheck := firstError_eq_none_iff.1 h
  have hcap := capacityExceeded_eq_false.1 (hcheck (capacityExceeded s, .invalidParameter) (by simp))
  have hout := hcheck (decide (s.ops.outcap.toNat < 16), .outputTooSmall) (by simp)
  exact ⟨hcap.2, by simpa using hout⟩

/-- The bounds the checks of ENCRYPT give. -/
theorem validateEncrypt_bounds {s : State} (h : validateEncrypt s = none) {total : Nat}
    (ht : requiredOutputSize s.ops.inlen.toNat (paddingOfBit s.ctx.pad) = .ok total) :
    s.ops.outcap.toNat ≤ s.cfg.bufCap ∧ total ≤ s.ops.outcap.toNat := by
  have hcheck := firstError_eq_none_iff.1 h
  have hcap := capacityExceeded_eq_false.1 (hcheck (capacityExceeded s, .invalidParameter) (by simp))
  have hout := hcheck
    (outputTooSmallFor s.ops.outcap.toNat s.ops.inlen.toNat (paddingOfBit s.ctx.pad), .outputTooSmall) (by simp)
  exact ⟨hcap.2, by simpa [outputTooSmallFor, ht] using hout⟩

/-- The bounds the checks of DECRYPT give. -/
theorem validateDecrypt_bounds {s : State} (h : validateDecrypt s = none) :
    s.ops.outcap.toNat ≤ s.cfg.bufCap ∧ s.ops.inlen.toNat ≤ s.ops.outcap.toNat := by
  have hcheck := firstError_eq_none_iff.1 h
  have hcap := capacityExceeded_eq_false.1 (hcheck (capacityExceeded s, .invalidParameter) (by simp))
  have hout := hcheck (decide (s.ops.outcap.toNat < s.ops.inlen.toNat), .outputTooSmall) (by simp)
  exact ⟨hcap.2, by simpa using hout⟩

/-- An attempt that succeeds has passed its checks. -/
theorem attempt_ok {i : Instr} {s t : State} {r : Release} (h : attempt i s = some (.ok r, t)) :
    validate i s = none ∧ attemptChecked i s = some (.ok r, t) := by
  cases hv : validate i s with
  | some e => simp [attempt_of_invalid hv] at h
  | none => exact ⟨rfl, attempt_of_valid hv ▸ h⟩

/-! ## Lengths -/

/-- The output size is the input's own length, or the next multiple of 16 above it (R140). -/
theorem requiredOutputSize_ok {n total : Nat} {p : Padding} (h : requiredOutputSize n p = .ok total) :
    n ≤ total ∧ total % 16 = 0 ∧ (p = .noPad → total = n) := by
  cases p <;> simp only [requiredOutputSize] at h
  · split at h <;> cases h
    exact ⟨le_rfl, ‹_›, fun _ => rfl⟩
  · cases h
    exact ⟨by omega, by omega, fun h => by cases h⟩

/-- The padded input is as long as the output size says (R144, R147). -/
theorem paddedInput_length {p : Padding} {total : Nat} {data : Bytes}
    (h : requiredOutputSize data.length p = .ok total) : (paddedInput p total data).length = total := by
  obtain ⟨hle, -, hno⟩ := requiredOutputSize_ok h
  cases p
  · exact (hno rfl).symm
  · simp [paddedInput, padBytes]; omega

@[simp] theorem blocksOf_length (q : Nat) (data : Bytes) : (blocksOf q data).length = q := by simp [blocksOf]

/-- The chunks a receive of `n` bytes can get bring at most `n` bytes (R121). -/
theorem chunksPartial_length_le {n : Nat} {cs : List Bytes} (h : chunksPartial n cs) : cs.flatten.length ≤ n := by
  induction cs generalizing n with
  | nil => simp
  | cons c cs ih =>
    obtain ⟨-, hc, hcs⟩ := h
    have := ih hcs
    simp only [List.flatten_cons, List.length_append]
    omega

/-- A receive collects at most what it was asked for (R69, R113). -/
theorem collect_length_le (e : Nat) (s : State) : (collect e s).1.length ≤ e := by
  obtain ⟨cs, -, hcs, heq, -⟩ := collect_spec e s
  exact heq ▸ chunksPartial_length_le hcs

theorem receiveOutcome_length {cfg : Config} {n : Nat} {raw p : Bytes} (h : receiveOutcome cfg n raw = .ok p) :
    p.length + 3 = raw.length := by
  unfold receiveOutcome at h
  split at h
  · cases h
  · exact parseResponse_length h

/-- The loop of ENCRYPT answers 16 bytes for a block (R135, R147). -/
theorem encBlocks_length {bs : List Bytes} {s : State} {out : Bytes} (h : (encBlocks bs s).1 = .ok out) :
    out.length = 16 * bs.length := by
  induction bs generalizing s out with
  | nil => cases h; rfl
  | cons b bs ih =>
    have hb := @cryptBlock_length (encInput b s) s.ctx.slot s.ctx.keyIdx .encrypt s
    simp only [encBlocks] at h
    generalize cryptBlock (encInput b s) s.ctx.slot s.ctx.keyIdx .encrypt s = q at h hb
    obtain ⟨_ | c, t⟩ := q
    · cases h
    · have hrest := @ih (encStore c t)
      simp only at h
      generalize encBlocks bs (encStore c t) = q at h hrest
      obtain ⟨_ | cs, u⟩ := q
      · cases h
      · cases h
        simp [hb rfl, hrest rfl]; omega

theorem decOutput_length {d : Bytes} (h : d.length = 16) (s : State) : (decOutput d s).length = 16 := by
  unfold decOutput
  split <;> simp [h]

/-- The loop of DECRYPT adds 16 bytes for a block (R135, R151). -/
theorem decBlocks_length {n : Nat} {got d : Bytes} {s t : State} (h : decBlocks n got s = .done d t) :
    d.length = got.length + 16 * n := by
  induction n generalizing got s with
  | zero => cases h; rfl
  | succ n ih =>
    simp only [decBlocks] at h
    cases hc : readInbuf (16 * s.blk) 16 s with
    | none => simp [hc] at h
    | some c =>
      simp only [hc] at h
      have hb := @cryptBlock_length c s.ctx.slot s.ctx.keyIdx .decrypt s
      generalize cryptBlock c s.ctx.slot s.ctx.keyIdx .decrypt s = q at h hb
      obtain ⟨_ | d', u⟩ := q
      · cases h
      · have := ih h
        simp only [List.length_append, decOutput_length (hb rfl)] at this
        omega

theorem unpad7_length_le {d out : Bytes} (h : unpad7 d = .ok out) : out.length ≤ d.length := by
  unfold unpad7 at h
  repeat' split at h
  all_goals cases h
  simp

theorem removePadding_length_le {p : Padding} {d out : Bytes} (h : removePadding p d = .ok out) :
    out.length ≤ d.length := by
  cases p
  · cases h; exact le_rfl
  · exact unpad7_length_le h

/-! ## What is released fits the granted capacity -/

theorem releasing_eq_bytes {p : Except Err Bytes × State} {out : Bytes} {t : State}
    (h : releasing p = (.ok (.bytes out), t)) : p.1 = .ok out := by
  obtain ⟨_ | _, _⟩ := p <;> simp_all [releasing, Except.map]

/-- The bytes a command releases fit into `OUTCAP`, and `OUTCAP` into the buffer: this is what the checks of R173 are
for. -/
theorem attempt_bytes_le_outcap {i : Instr} {s t : State} {out : Bytes}
    (h : attempt i s = some (.ok (.bytes out), t)) :
    out.length ≤ s.ops.outcap.toNat ∧ s.ops.outcap.toNat ≤ s.cfg.bufCap := by
  have hkind := (attempt_sound h).release _ rfl
  obtain ⟨hv, h⟩ := attempt_ok h
  cases i
  case crc16 | send | reqsize | ctxset => simp [Release.OfKind] at hkind
  case build =>
    obtain ⟨payload, hread, h⟩ := Option.map_eq_some_iff.1 h
    obtain ⟨⟨-, hcap⟩, -, hout⟩ := validateBuild_eq_none.1 hv
    have hlen := readBytes_length hread
    have hf := releasing_eq_bytes h
    unfold buildCommandFrame at hf
    split at hf <;> cases hf
    simp only [commandFrame_length]
    omega
  case parse =>
    obtain ⟨raw, hread, h⟩ := Option.map_eq_some_iff.1 h
    obtain ⟨⟨-, hcap⟩, hout⟩ := validateParse_eq_none.1 hv
    have hlen := readBytes_length hread
    have hp := parseResponse_length (releasing_eq_bytes h)
    omega
  case receive =>
    obtain ⟨⟨-, hcap⟩, hout⟩ := validateReceive_eq_none.1 hv
    have hp := receiveOutcome_length (releasing_eq_bytes (Option.some.inj h))
    have hle := collect_length_le s.ops.pExplen.toNat s
    omega
  case cryptblock =>
    obtain ⟨x, -, h⟩ := Option.map_eq_some_iff.1 h
    obtain ⟨hcap, hout⟩ := validateCryptblock_bounds hv
    have := cryptBlock_length (releasing_eq_bytes h)
    omega
  case encrypt =>
    simp only [attemptChecked] at h
    cases hq : requiredOutputSize s.ops.inlen.toNat (paddingOfBit s.ctx.pad) with
    | error e => simp [hq] at h
    | ok total =>
      simp only [hq] at h
      obtain ⟨data, -, h⟩ := Option.map_eq_some_iff.1 h
      obtain ⟨hcap, hout⟩ := validateEncrypt_bounds hv hq
      have hlen := encBlocks_length (releasing_eq_bytes h)
      rw [blocksOf_length] at hlen
      omega
  case decrypt =>
    simp only [attemptChecked] at h
    obtain ⟨hcap, hout⟩ := validateDecrypt_bounds hv
    cases hd : decBlocks (s.ops.inlen.toNat / 16) [] (loadIv s) with
    | unwritten => simp [hd, decryptAttempt] at h
    | failed e u => simp [hd, decryptAttempt] at h
    | done d u =>
      simp only [hd, decryptAttempt, Option.some.injEq] at h
      have hlen := decBlocks_length hd
      have hle := removePadding_length_le (releasing_eq_bytes h)
      simp only [List.length_nil] at hlen
      omega

/-! ## The operations -/

section
variable {P : State → Prop} {s : State}

theorem SurvivesAttempt.parseEffect (hP : SurvivesAttempt P) (raw : Bytes) (hs : P s) : P (parseEffect raw s) := by
  obtain ⟨r, h⟩ := parseEffect_frame raw s
  exact h ▸ hP.setCrcreg r s hs

theorem SurvivesAttempt.receiveEffect (hP : SurvivesAttempt P) (e : Nat) (raw : Bytes) (hs : P s) :
    P (receiveEffect e raw s) := by
  obtain ⟨r, h⟩ := receiveEffect_frame e raw s
  exact h ▸ hP.setCrcreg r s hs

theorem SurvivesAttempt.classifyEffect (hP : SurvivesAttempt P) (raw : Bytes) (hs : P s) :
    P (classifyEffect raw s) := by
  obtain ⟨r, h⟩ := classifyEffect_frame raw s
  exact h ▸ hP.setCrcreg r s hs

theorem SurvivesAttempt.storeFrame (hP : SurvivesAttempt P) (op p1 : Byte) (p2 : Word16) {payload : Bytes}
    (hlen : payload.length ≤ s.cfg.maxPayload) (hs : P s) : P (storeFrame op p1 p2 payload s) :=
  hP.setTx _ _ (by simpa using hlen) (hP.setCrcreg _ _ hs)

theorem SurvivesAttempt.buildCommandFrame (hP : SurvivesAttempt P) (op p1 : Byte) (p2 : Word16) (payload : Bytes)
    (hs : P s) : P (buildCommandFrame op p1 p2 payload s).2 := by
  unfold Machine.buildCommandFrame
  split
  · exact hs
  · exact hP.storeFrame op p1 p2 (by omega) hs

theorem SurvivesAttempt.send (hP : SurvivesAttempt P) (op p1 : Byte) (p2 : Word16) (payload : Bytes)
    (hs : P s) : P (send op p1 p2 payload s).2 := by
  rcases send_spec op p1 p2 payload s with ⟨_, h⟩ | ⟨hlen, h⟩ <;> rw [h]
  · exact hs
  · exact hP.busWrite _ _ (hP.busWake _ (hP.storeFrame op p1 p2 hlen hs))

theorem SurvivesAttempt.rxLoop (hP : SurvivesAttempt P) {e fuel : Nat} (got : Bytes)
    (he : e ≤ max s.cfg.rxCap Param.cryptRespLen) (hfuel : s.attempts + fuel ≤ Param.retryBudget) (hs : P s) :
    P (rxLoop e fuel got s).2 := by
  induction fuel generalizing got s with
  | zero => exact hs
  | succ fuel ih =>
    unfold Machine.rxLoop
    split
    · have hstep : (Machine.rxRequest e s).attempts = s.attempts + 1 := rfl
      exact ih _ he (by omega) (hP.rxRequest e s he ‹_› (by omega) hs)
    · exact hs

theorem SurvivesAttempt.collect (hP : SurvivesAttempt P) {e : Nat} (he : e ≤ max s.cfg.rxCap Param.cryptRespLen)
    (hs : P s) : P (collect e s).2 :=
  hP.busIdle _ (hP.rxLoop (s := Machine.rxStart s) [] he (by simp) (hP.rxStart s hs))

theorem SurvivesAttempt.receive (hP : SurvivesAttempt P) {e : Nat} (he : e ≤ max s.cfg.rxCap Param.cryptRespLen)
    (hs : P s) : P (receive e s).2 :=
  hP.receiveEffect e _ (hP.collect he hs)

theorem SurvivesAttempt.cryptBlock (hP : SurvivesAttempt P) (x : Bytes) (slot key : Byte) (dir : Direction)
    (hs : P s) : P (cryptBlock x slot key dir s).2 := by
  unfold Machine.cryptBlock
  split
  · exact hs
  · have hsend := hP.send s.cfg.aesOpcode (modeByte key dir) (slot.setWidth 16) x hs
    generalize Machine.send s.cfg.aesOpcode (modeByte key dir) (slot.setWidth 16) x s = q at hsend
    obtain ⟨e | _, t⟩ := q
    · exact hsend
    · have hcollect := hP.collect (e := Param.cryptRespLen) (le_max_right _ _) (hP.busExecWait t hsend)
      have hparsed := hP.receiveEffect Param.cryptRespLen (Machine.collect Param.cryptRespLen (Machine.busExecWait t)).1
        hcollect
      simp only
      split
      · exact hparsed
      · exact hP.classifyEffect _ hparsed

/-- The block loop of ENCRYPT, whose blocks all lie in WORK. -/
theorem SurvivesAttempt.encBlocks (hP : SurvivesAttempt P) {bs : List Bytes}
    (hfit : 16 * (s.blk + bs.length) ≤ s.cfg.bufCap) (hs : P s) : P (encBlocks bs s).2 := by
  induction bs generalizing s with
  | nil => exact hs
  | cons b bs ih =>
    have hb := hP.cryptBlock (encInput b s) s.ctx.slot s.ctx.keyIdx .encrypt hs
    have hf := cryptBlock_frame (encInput b s) s.ctx.slot s.ctx.keyIdx .encrypt s
    have hlen := @cryptBlock_length (encInput b s) s.ctx.slot s.ctx.keyIdx .encrypt s
    unfold Machine.encBlocks
    generalize Machine.cryptBlock (encInput b s) s.ctx.slot s.ctx.keyIdx .encrypt s = q at *
    obtain ⟨e | c, t⟩ := q
    · exact hb
    · simp only [List.length_cons] at hfit
      have hblk : t.blk = s.blk := hf.blk
      have hcfg : t.cfg = s.cfg := hf.cfg
      have hrest := @ih (Machine.encStore c t) (by simp [hblk, hcfg]; omega)
        (hP.encStore c t (hlen rfl) (by rw [hblk, hcfg]; omega) hb)
      simp only
      generalize Machine.encBlocks bs (Machine.encStore c t) = q at *
      obtain ⟨e | cs, u⟩ := q <;> exact hrest

/-- The block loop of DECRYPT, whose blocks all lie in WORK. -/
theorem SurvivesAttempt.decBlocks (hP : SurvivesAttempt P) {n : Nat} (got : Bytes)
    (hfit : 16 * (s.blk + n) ≤ s.cfg.bufCap) (hs : P s) :
    match decBlocks n got s with
    | .done _ t | .failed _ t => P t
    | .unwritten => True := by
  induction n generalizing got s with
  | zero => exact hs
  | succ n ih =>
    unfold Machine.decBlocks
    cases readInbuf (16 * s.blk) 16 s with
    | none => trivial
    | some c =>
      simp only
      have hb := hP.cryptBlock c s.ctx.slot s.ctx.keyIdx .decrypt hs
      have hf := cryptBlock_frame c s.ctx.slot s.ctx.keyIdx .decrypt s
      have hlen := @cryptBlock_length c s.ctx.slot s.ctx.keyIdx .decrypt s
      generalize Machine.cryptBlock c s.ctx.slot s.ctx.keyIdx .decrypt s = q at *
      obtain ⟨e | d, t⟩ := q
      · exact hb
      · have hblk : t.blk = s.blk := hf.blk
        have hcfg : t.cfg = s.cfg := hf.cfg
        exact ih _ (by simp [hblk, hcfg]; omega)
          (hP.decStore c d t (hlen rfl) (by rw [hblk, hcfg]; omega) hb)

/-! ## The attempts -/

theorem SurvivesAttempt.attemptChecked (hP : SurvivesAttempt P) {i : Instr} {p : Attempt} (hv : validate i s = none)
    (hblk : s.blk = 0) (h : attemptChecked i s = some p) (hs : P s) : P p.2 := by
  cases i
  case crc16 =>
    obtain ⟨data, -, rfl⟩ := Option.map_eq_some_iff.1 h
    exact hP.setCrcreg _ s hs
  case build =>
    obtain ⟨payload, -, rfl⟩ := Option.map_eq_some_iff.1 h
    exact hP.buildCommandFrame _ _ _ payload hs
  case parse =>
    obtain ⟨raw, hread, rfl⟩ := Option.map_eq_some_iff.1 h
    obtain ⟨⟨hcap, -⟩, -⟩ := validateParse_eq_none.1 hv
    exact hP.parseEffect raw (hP.rxLoad raw s (readBytes_length hread ▸ hcap) hs)
  case send =>
    obtain ⟨payload, -, rfl⟩ := Option.map_eq_some_iff.1 h
    exact hP.send _ _ _ payload hs
  case receive =>
    cases h
    obtain ⟨⟨hcap, -⟩, -⟩ := validateReceive_eq_none.1 hv
    exact hP.receive (le_max_of_le_left hcap) hs
  case cryptblock =>
    obtain ⟨x, -, rfl⟩ := Option.map_eq_some_iff.1 h
    exact hP.cryptBlock x _ _ _ hs
  case reqsize => cases h; exact hs
  case ctxset => cases h; exact hs
  case encrypt =>
    simp only [Machine.attemptChecked] at h
    cases hq : requiredOutputSize s.ops.inlen.toNat (paddingOfBit s.ctx.pad) with
    | error e =>
      simp only [hq, Option.some.injEq] at h
      exact h ▸ hs
    | ok total =>
      simp only [hq] at h
      obtain ⟨data, hread, rfl⟩ := Option.map_eq_some_iff.1 h
      obtain ⟨hcap, hout⟩ := validateEncrypt_bounds hv hq
      have hlen := paddedInput_length (readBytes_length hread ▸ hq)
      refine hP.encBlocks ?_ (hP.loadWork _ s (by omega) hs)
      simp [hblk]; omega
  case decrypt =>
    obtain ⟨hcap, hout⟩ := validateDecrypt_bounds hv
    have hloop := hP.decBlocks (s := Machine.loadIv s) (n := s.ops.inlen.toNat / 16) [] (by simp [hblk]; omega)
      (hP.loadIv s hs)
    have hf := decBlocks_frame (s.ops.inlen.toNat / 16) [] (Machine.loadIv s)
    simp only [Machine.attemptChecked] at h
    cases hd : Machine.decBlocks (s.ops.inlen.toNat / 16) [] (Machine.loadIv s) with
    | unwritten => simp [hd, decryptAttempt] at h
    | failed e t =>
      simp only [hd, decryptAttempt, Option.some.injEq] at h hloop
      exact h ▸ hloop
    | done d t =>
      simp only [hd, decryptAttempt, Option.some.injEq] at h hloop hf
      have hlen := decBlocks_length hd
      have hcfg : t.cfg = s.cfg := hf.cfg
      simp only [List.length_nil] at hlen
      exact h ▸ hP.setWorklen d.length t (by rw [hcfg]; omega) hloop

/-- What survives each single operation survives every attempt of a command that has just started. -/
theorem SurvivesAttempt.attempt (hP : SurvivesAttempt P) {i : Instr} {p : Attempt} (hblk : s.blk = 0)
    (h : attempt i s = some p) (hs : P s) : P p.2 := by
  cases hv : validate i s with
  | some e =>
    rw [attempt_of_invalid hv] at h
    cases h
    exact hs
  | none => exact hP.attemptChecked hv hblk (attempt_of_valid hv ▸ h) hs

end

end Sys2Proof.Machine

/-! # The byte arrays and the commands: O34, O37, O60

An attempt keeps what the host owns and OUTBUF; its completion writes OUTBUF below `OUTLEN` at most. The sizes survive
every single operation, so they survive the attempt. -/

namespace Sys2Proof.Machine

/-- No release writes what the host owns. -/
theorem Release.apply_keepsHostOwned (r : Release) (s : State) : KeepsHostOwned s (r.apply s) := by
  cases r <;> exact ⟨rfl, rfl, rfl, rfl, rfl, rfl⟩

theorem finishCommand_keepsHostOwned {s t : State} (h : KeepsHostOwned s t) : KeepsHostOwned s (finishCommand t) := by
  simpa only [KeepsHostOwned, finishCommand_cfg, finishCommand_ops, finishCommand_inbuf, finishCommand_hostq,
    finishCommand_reads, finishCommand_era] using h

theorem KeepsBesideScratch.keepsHostOwned {s t : State} (h : KeepsBesideScratch s t) : KeepsHostOwned s t :=
  ⟨h.cfg, h.ops, h.inbuf, h.hostq, h.reads, h.era⟩

/-- Settles O34: neither an attempt nor its completion writes what the host owns. -/
theorem commandsKeepWhatTheHostOwns : Obligations.CommandsKeepWhatTheHostOwns := by
  intro i s t h
  obtain ⟨⟨o, u⟩, hp, rfl⟩ := exec_next_sound h
  have hu : KeepsHostOwned s u := hp.frame.keepsHostOwned
  cases o with
  | error e =>
    apply finishCommand_keepsHostOwned
    split <;> exact hu
  | ok r =>
    apply finishCommand_keepsHostOwned
    obtain ⟨hcfg, hops, hin, hq, hreads, hera⟩ := r.apply_keepsHostOwned u
    obtain ⟨hcfg', hops', hin', hq', hreads', hera'⟩ := hu
    exact ⟨hcfg.trans hcfg', hops.trans hops', hin.trans hin', hq.trans hq', hreads.trans hreads', hera.trans hera'⟩

/-- A release writes OUTBUF below `OUTLEN` only, when what it releases can be counted in 16 bits. -/
theorem Release.apply_outbuf_read {r : Release} {s : State} (hlen : ∀ out, r = .bytes out → out.length < 2 ^ 16) {a : Nat}
    (ha : (r.apply s).outlen.toNat ≤ a) : (r.apply s).outbuf.read a = s.outbuf.read a := by
  cases r with
  | bytes out =>
    have h16 := hlen out rfl
    simp only [Release.apply, releaseOut_outlen, BitVec.toNat_ofNat, Nat.mod_eq_of_lt h16] at ha
    simp only [Release.apply, releaseOut_outbuf]
    rw [read_writeBytes, if_neg (by omega)]
  | size n => rfl
  | crc w => rfl
  | context c => rfl

/-- Settles O37: an error completion writes no byte of OUTBUF, and what a success writes is at most `OUTCAP` bytes long, so
that `OUTLEN` counts them all. -/
theorem outbufIsWrittenBelowOutlenOnly : Obligations.OutbufIsWrittenBelowOutlenOnly := by
  intro i s t h a ha
  obtain ⟨⟨o, u⟩, hp, rfl⟩ := exec_next h
  have hout : u.outbuf = s.outbuf := (attempt_sound hp).frame.outbuf
  rw [← hout]
  cases o with
  | error e =>
    simp only [complete, errorCompletion_outbuf]
    split <;> rfl
  | ok r =>
    simp only [complete, finishCommand_outlen, finishCommand_outbuf] at ha ⊢
    refine r.apply_outbuf_read (fun out hr => ?_) ha
    subst hr
    have hle := (attempt_bytes_le_outcap hp).1
    have hlt := (startCommand (encode i) s).ops.outcap.isLt
    omega

/-! ## The sizes -/

theorem setTx_within {f : Bytes} {s : State} (hf : f.length ≤ Param.txBufSize) (hs : s.WithinCapacities) :
    (setTx f s).WithinCapacities := by
  obtain ⟨hin, hout, htx, hrx, hwork, -, hcnt, hatt, hwl⟩ := hs
  exact ⟨hin, hout, writeBytes_within htx (by omega), hrx, hwork, hf, hcnt, hatt, hwl⟩

theorem rxStart_within {s : State} (hs : s.WithinCapacities) : (rxStart s).WithinCapacities := by
  obtain ⟨hin, hout, htx, hrx, hwork, htl, -, -, hwl⟩ := hs
  exact ⟨hin, hout, htx, hrx, hwork, htl, Nat.zero_le _, Nat.zero_le _, hwl⟩

/-- A chunk is never longer than what is missing (R69), so it fits. -/
theorem rxRequest_within {e : Nat} {s : State} (he : e ≤ s.cfg.rxCap) (hcnt : s.rxcnt < e)
    (hatt : s.attempts < Param.retryBudget) (hs : s.WithinCapacities) : (rxRequest e s).WithinCapacities := by
  obtain ⟨hin, hout, htx, hrx, hwork, htl, -, -, hwl⟩ := hs
  have hlen := busAnswer_length_le (chunkSize e s.rxcnt) s
  have hfit : s.rxcnt + (busAnswer (chunkSize e s.rxcnt) s).length ≤ s.cfg.rxCap := by
    unfold chunkSize at hlen ⊢; omega
  exact ⟨hin, hout, htx, writeBytes_within hrx hfit, hwork, htl, hfit, hatt, hwl⟩

theorem rxLoad_within {raw : Bytes} {s : State} (hraw : raw.length ≤ s.cfg.rxCap) (hs : s.WithinCapacities) :
    (rxLoad raw s).WithinCapacities := by
  obtain ⟨hin, hout, htx, hrx, hwork, htl, -, hatt, hwl⟩ := hs
  exact ⟨hin, hout, htx, writeBytes_within hrx (by omega), hwork, htl, hraw, hatt, hwl⟩

theorem setWorklen_within {n : Nat} {s : State} (hn : n ≤ s.cfg.bufCap + 16) (hs : s.WithinCapacities) :
    (setWorklen n s).WithinCapacities := by
  obtain ⟨hin, hout, htx, hrx, hwork, htl, hcnt, hatt, -⟩ := hs
  exact ⟨hin, hout, htx, hrx, hwork, htl, hcnt, hatt, hn⟩

theorem loadWork_within {data : Bytes} {s : State} (hlen : data.length ≤ s.cfg.bufCap + 16) (hs : s.WithinCapacities) :
    (loadWork data s).WithinCapacities := by
  obtain ⟨hin, hout, htx, hrx, hwork, htl, hcnt, hatt, -⟩ := hs
  exact ⟨hin, hout, htx, hrx, writeBytes_within hwork (by omega), htl, hcnt, hatt, hlen⟩

theorem encStore_within {c : Bytes} {s : State} (hfit : 16 * s.blk + c.length ≤ s.cfg.bufCap + 16)
    (hs : s.WithinCapacities) : (encStore c s).WithinCapacities := by
  obtain ⟨hin, hout, htx, hrx, hwork, hcounts⟩ := hs
  exact ⟨hin, hout, htx, hrx, writeBytes_within hwork hfit, hcounts⟩

theorem decStore_within {c d : Bytes} {s : State} (hfit : 16 * s.blk + (decOutput d s).length ≤ s.cfg.bufCap + 16)
    (hs : s.WithinCapacities) : (decStore c d s).WithinCapacities := by
  obtain ⟨hin, hout, htx, hrx, hwork, hcounts⟩ := hs
  exact ⟨hin, hout, htx, hrx, writeBytes_within hwork hfit, hcounts⟩

theorem clearWork_within {s : State} (hs : s.WithinCapacities) : (clearWork s).WithinCapacities := by
  obtain ⟨hin, hout, htx, hrx, hwork, htl, hcnt, hatt, -⟩ := hs
  exact ⟨hin, hout, htx, hrx, writeBytes_within hwork (by simp), htl, hcnt, hatt, Nat.zero_le _⟩

theorem finishCommand_within {s : State} (hs : s.WithinCapacities) : (finishCommand s).WithinCapacities := by
  unfold finishCommand
  split
  · exact clearWork_within hs
  · exact hs

theorem Release.apply_within {r : Release} {s : State} (hlen : ∀ out, r = .bytes out → out.length ≤ s.cfg.bufCap)
    (hs : s.WithinCapacities) : (r.apply s).WithinCapacities := by
  cases r with
  | bytes out =>
    obtain ⟨hin, hout, hrest⟩ := hs
    have hfit : 0 + out.length ≤ s.cfg.bufCap := by simpa using hlen out rfl
    exact ⟨hin, writeBytes_within hout hfit, hrest⟩
  | size n => exact hs
  | crc w => exact hs
  | context c => exact hs

/-- In a legal configuration the bounds of an attempt are those of the arrays: `8 + MAX_PAYLOAD = 255`, and the response of
a block fits `RX_CAP`. -/
theorem withinCapacities_survives : SurvivesAttempt fun s => s.cfg.Legal ∧ s.WithinCapacities where
  busWake _ h := h
  busWrite _ _ h := h
  busExecWait _ h := h
  busIdle _ h := h
  setCrcreg _ _ h := h
  setTx f s hf := fun ⟨hl, hs⟩ => by
    have hmax : s.cfg.maxPayload = 247 := hl.1
    exact ⟨hl, setTx_within (by unfold Param.txBufSize; omega) hs⟩
  rxStart s := fun ⟨hl, hs⟩ => ⟨hl, rxStart_within hs⟩
  rxRequest e s he hcnt hatt := fun ⟨hl, hs⟩ => by
    have hrx : s.cfg.rxCap = 256 := hl.2.1
    exact ⟨hl, rxRequest_within (by unfold Param.cryptRespLen at he; omega) hcnt hatt hs⟩
  rxLoad raw s hraw := fun ⟨hl, hs⟩ => ⟨hl, rxLoad_within hraw hs⟩
  loadIv _ h := h
  loadWork data s hlen := fun ⟨hl, hs⟩ => ⟨hl, loadWork_within (by omega) hs⟩
  setWorklen n s hn := fun ⟨hl, hs⟩ => ⟨hl, setWorklen_within (by omega) hs⟩
  encStore c s hc hfit := fun ⟨hl, hs⟩ => ⟨hl, encStore_within (by omega) hs⟩
  decStore c d s hd hfit := fun ⟨hl, hs⟩ =>
    ⟨hl, decStore_within (by rw [decOutput_length hd]; omega) hs⟩

/-- Settles O60: the sizes survive the attempt, and the completion writes OUTBUF within `OUTCAP` and WORK within its
size. -/
theorem commandsStayWithinCapacities : Obligations.CommandsStayWithinCapacities := by
  intro i s t hlegal hs h
  obtain ⟨⟨o, u⟩, hp, rfl⟩ := exec_next h
  obtain ⟨-, hu⟩ := withinCapacities_survives.attempt rfl hp ⟨hlegal, hs⟩
  cases o with
  | error e =>
    apply finishCommand_within
    split <;> exact hu
  | ok r =>
    refine finishCommand_within (r.apply_within (fun out hr => ?_) hu)
    subst hr
    have hcfg : u.cfg = (startCommand (encode i) s).cfg := (attempt_sound hp).frame.cfg
    obtain ⟨hout, hcap⟩ := attempt_bytes_le_outcap hp
    exact hcfg ▸ hout.trans hcap

end Sys2Proof.Machine

/-! # The canonical form of the byte arrays: O56

Every operation of the model stores into the byte arrays by `Memory.writeBytes`, which keeps the canonical form, or, at a
reset, empties them. -/

namespace Sys2Proof.Machine

/-! ## The operations that store into an array -/

section
variable {s : State}

theorem setTx_canonical (f : Bytes) (hs : s.MemoryCanonical) : (setTx f s).MemoryCanonical := by
  obtain ⟨hin, hout, htx, hrx, hwork⟩ := hs
  exact ⟨hin, hout, writeBytes_wf htx _ _, hrx, hwork⟩

theorem rxRequest_canonical (e : Nat) (hs : s.MemoryCanonical) : (rxRequest e s).MemoryCanonical := by
  obtain ⟨hin, hout, htx, hrx, hwork⟩ := hs
  exact ⟨hin, hout, htx, writeBytes_wf hrx _ _, hwork⟩

theorem rxLoad_canonical (raw : Bytes) (hs : s.MemoryCanonical) : (rxLoad raw s).MemoryCanonical := by
  obtain ⟨hin, hout, htx, hrx, hwork⟩ := hs
  exact ⟨hin, hout, htx, writeBytes_wf hrx _ _, hwork⟩

theorem loadWork_canonical (data : Bytes) (hs : s.MemoryCanonical) : (loadWork data s).MemoryCanonical := by
  obtain ⟨hin, hout, htx, hrx, hwork⟩ := hs
  exact ⟨hin, hout, htx, hrx, writeBytes_wf hwork _ _⟩

theorem encStore_canonical (c : Bytes) (hs : s.MemoryCanonical) : (encStore c s).MemoryCanonical := by
  obtain ⟨hin, hout, htx, hrx, hwork⟩ := hs
  exact ⟨hin, hout, htx, hrx, writeBytes_wf hwork _ _⟩

theorem decStore_canonical (c d : Bytes) (hs : s.MemoryCanonical) : (decStore c d s).MemoryCanonical := by
  obtain ⟨hin, hout, htx, hrx, hwork⟩ := hs
  exact ⟨hin, hout, htx, hrx, writeBytes_wf hwork _ _⟩

theorem releaseOut_canonical (out : Bytes) (hs : s.MemoryCanonical) : (releaseOut out s).MemoryCanonical := by
  obtain ⟨hin, hout, hhidden⟩ := hs
  exact ⟨hin, writeBytes_wf hout _ _, hhidden⟩

theorem finishCommand_canonical (hs : s.MemoryCanonical) : (finishCommand s).MemoryCanonical := by
  obtain ⟨hin, hout, htx, hrx, hwork⟩ := hs
  unfold finishCommand
  split
  · exact ⟨hin, hout, htx, hrx, writeBytes_wf hwork _ _⟩
  · exact ⟨hin, hout, htx, hrx, hwork⟩

/-! ## The commands -/

/-- The canonical form survives each operation of an attempt, whatever its bounds. -/
theorem memoryCanonical_survives : SurvivesAttempt State.MemoryCanonical where
  busWake _ h := h
  busWrite _ _ h := h
  busExecWait _ h := h
  busIdle _ h := h
  setCrcreg _ _ h := h
  setTx f _ _ h := setTx_canonical f h
  rxStart _ h := h
  rxRequest e _ _ _ _ h := rxRequest_canonical e h
  rxLoad raw _ _ h := rxLoad_canonical raw h
  loadIv _ h := h
  loadWork data _ _ h := loadWork_canonical data h
  setWorklen _ _ _ h := h
  encStore c _ _ _ h := encStore_canonical c h
  decStore c d _ _ _ h := decStore_canonical c d h

theorem Release.apply_canonical (r : Release) (hs : s.MemoryCanonical) : (r.apply s).MemoryCanonical := by
  cases r with
  | bytes out => exact releaseOut_canonical out hs
  | size n => exact hs
  | crc w => exact hs
  | context c => exact hs

theorem exec_canonical {i : Instr} {t : State} (hs : s.MemoryCanonical) (h : exec i s = .next t) : t.MemoryCanonical := by
  obtain ⟨⟨o, u⟩, hp, rfl⟩ := exec_next h
  have hu : u.MemoryCanonical := memoryCanonical_survives.attempt rfl hp hs
  cases o with
  | error e =>
    apply finishCommand_canonical
    split <;> exact hu
  | ok r => exact finishCommand_canonical (r.apply_canonical hu)

theorem runCommand_canonical {v : Byte} {t : State} (hs : s.MemoryCanonical) (h : runCommand v s = .next t) :
    t.MemoryCanonical := by
  unfold runCommand at h
  split at h
  · exact exec_canonical hs h
  · cases h
    exact finishCommand_canonical hs

/-! ## One transition of the sequencer -/

/-- Every next state of the outcome satisfies `P`. -/
def EveryNext (P : State → Prop) (o : Host.Outcome State Fault Refusal) : Prop := ∀ t, o = .next t → P t

theorem EveryNext.next {P : State → Prop} {t : State} (h : P t) : EveryNext P (.next t) := fun _ h' => by cases h'; exact h

theorem EveryNext.fault {P : State → Prop} {f : Fault} : EveryNext P (.fault f) := fun _ h => by cases h

theorem EveryNext.refused {P : State → Prop} {r : Refusal} : EveryNext P (.refused r) := fun _ h => by cases h

theorem EveryNext.withBytes {P : State → Prop} {r : Refusal} {o : Option Bytes}
    {k : Bytes → Host.Outcome State Fault Refusal} (h : ∀ bs, EveryNext P (k bs)) :
    EveryNext P (withBytes r o k) := by
  cases o with
  | none => exact .refused
  | some bs => exact h bs

theorem seqValidate_canonical (hs : s.MemoryCanonical) : EveryNext State.MemoryCanonical (seqValidate s) := by
  unfold seqValidate
  cases decode s.cur with
  | error => exact .next hs
  | ok i =>
    simp only
    cases validate i s with
    | some e =>
      refine .next ?_
      split <;> exact hs
    | none =>
      cases i
      case parse => exact .withBytes fun raw => .next (rxLoad_canonical raw hs)
      all_goals exact .next hs

theorem seqFrame_canonical (op p1 : Byte) (p2 : Word16) (payload : Bytes) (q : SeqState) (hs : s.MemoryCanonical) :
    EveryNext State.MemoryCanonical (seqFrame op p1 p2 payload q s) := by
  have ht := memoryCanonical_survives.buildCommandFrame op p1 p2 payload hs
  unfold seqFrame
  generalize buildCommandFrame op p1 p2 payload s = r at ht
  obtain ⟨e | f, t⟩ := r <;> exact .next ht

theorem seqCompute_canonical (hs : s.MemoryCanonical) : EveryNext State.MemoryCanonical (seqCompute s) := by
  unfold seqCompute
  cases decode s.cur with
  | error => exact .fault
  | ok i =>
    cases i
    case crc16 => exact .withBytes fun _ => .next hs
    case build | send => exact .withBytes fun payload => seqFrame_canonical _ _ _ payload _ hs
    case reqsize | ctxset | decrypt => exact .next hs
    case encrypt =>
      simp only
      cases requiredOutputSize s.ops.inlen.toNat (paddingOfBit s.ctx.pad) with
      | error e => exact .next hs
      | ok total => exact .withBytes fun data => .next (loadWork_canonical _ hs)
    all_goals exact .fault

theorem seqBlkPre_canonical (hs : s.MemoryCanonical) : EveryNext State.MemoryCanonical (seqBlkPre s) := by
  unfold seqBlkPre
  cases decode s.cur with
  | error => exact .fault
  | ok i =>
    cases i
    case cryptblock | encrypt | decrypt => exact .withBytes fun x => seqFrame_canonical _ _ _ _ _ hs
    all_goals exact .fault

theorem seqTx_canonical (hs : s.MemoryCanonical) : EveryNext State.MemoryCanonical (seqTx s) := by
  unfold seqTx
  refine .withBytes fun f => ?_
  cases decode s.cur with
  | error => exact .fault
  | ok i =>
    cases i
    case send | cryptblock | encrypt | decrypt => exact .next hs
    all_goals exact .fault

theorem seqRxReq_canonical (hs : s.MemoryCanonical) : EveryNext State.MemoryCanonical (seqRxReq s) := by
  unfold seqRxReq
  split
  · exact .next (rxRequest_canonical _ hs)
  · exact .next hs

theorem seqParse_canonical (hs : s.MemoryCanonical) : EveryNext State.MemoryCanonical (seqParse s) := by
  unfold seqParse
  refine .withBytes fun raw => ?_
  have hparsed := memoryCanonical_survives.parseEffect raw hs
  have hreceived := memoryCanonical_survives.receiveEffect (seqExpected s) raw hs
  cases decode s.cur with
  | error => exact .fault
  | ok i =>
    cases i
    case parse =>
      simp only
      cases parseResponse s.cfg raw <;> exact .next hparsed
    case receive | cryptblock | encrypt | decrypt =>
      simp only
      cases receiveOutcome s.cfg (seqExpected s) raw <;> exact .next hreceived
    all_goals exact .fault

theorem seqClassify_canonical (hs : s.MemoryCanonical) : EveryNext State.MemoryCanonical (seqClassify s) := by
  unfold seqClassify
  cases s.pend with
  | none => exact .fault
  | some e => exact .withBytes fun raw => .next (memoryCanonical_survives.classifyEffect raw hs)

theorem seqNextBlock_canonical (total : Nat) (q : SeqState) (hs : s.MemoryCanonical) :
    EveryNext State.MemoryCanonical (seqNextBlock total q s) := by
  unfold seqNextBlock
  split
  · exact .next hs
  · split
    · exact .next hs
    · exact .fault

theorem seqBlkPost_canonical (hs : s.MemoryCanonical) : EveryNext State.MemoryCanonical (seqBlkPost s) := by
  unfold seqBlkPost
  cases decode s.cur with
  | error => exact .fault
  | ok i =>
    cases i
    case cryptblock => exact .next hs
    case encrypt => exact .withBytes fun c => seqNextBlock_canonical _ _ (encStore_canonical c hs)
    case decrypt =>
      exact .withBytes fun d => .withBytes fun c => seqNextBlock_canonical _ _ (decStore_canonical c d hs)
    all_goals exact .fault

theorem seqUnpad_canonical (hs : s.MemoryCanonical) : EveryNext State.MemoryCanonical (seqUnpad s) := by
  unfold seqUnpad
  refine .withBytes fun d => ?_
  cases removePadding (paddingOfBit s.ctx.pad) d <;> exact .next hs

theorem seqReleaseOut_canonical (o : Option Bytes) (hs : s.MemoryCanonical) :
    EveryNext State.MemoryCanonical (seqReleaseOut o s) :=
  .withBytes fun out => .next (releaseOut_canonical out hs)

theorem seqRelease_canonical (hs : s.MemoryCanonical) : EveryNext State.MemoryCanonical (seqRelease s) := by
  unfold seqRelease
  cases decode s.cur with
  | error => exact .fault
  | ok i =>
    cases i
    case crc16 | send | ctxset => exact .next hs
    case reqsize =>
      simp only
      cases requiredOutputSize s.ops.inlen.toNat (paddingOfBit s.ops.pPad) <;> exact .next hs
    all_goals exact seqReleaseOut_canonical _ hs

theorem seqFailStep_canonical (hs : s.MemoryCanonical) : EveryNext State.MemoryCanonical (seqFailStep s) := by
  unfold seqFailStep
  cases s.pend with
  | none => exact .fault
  | some e => exact .next hs

/-- A transition keeps the canonical form. -/
theorem seqStep_canonical (hs : s.MemoryCanonical) : EveryNext State.MemoryCanonical (seqStep s) := by
  unfold seqStep
  cases s.seq
  case sIdle | sWake | sExec | sGoIdle => exact .next hs
  case sValidate => exact seqValidate_canonical hs
  case sCompute => exact seqCompute_canonical hs
  case sBlkPre => exact seqBlkPre_canonical hs
  case sTx => exact seqTx_canonical hs
  case sRxReq => exact seqRxReq_canonical hs
  case sParse => exact seqParse_canonical hs
  case sClassify => exact seqClassify_canonical hs
  case sBlkPost => exact seqBlkPost_canonical hs
  case sUnpad => exact seqUnpad_canonical hs
  case sRelease => exact seqRelease_canonical hs
  case sFail => exact seqFailStep_canonical hs
  case sFinish => exact .next (finishCommand_canonical hs)

/-! ## The host's actions -/

theorem writeRegNumber_canonical (n : Byte) (v : Word128) (hs : s.MemoryCanonical) :
    (writeRegNumber n v s).MemoryCanonical := by
  unfold writeRegNumber
  repeat' split
  all_goals exact hs

theorem writeInbuf_canonical (off : Nat) (bytes : Bytes) (hs : s.MemoryCanonical) :
    EveryNext State.MemoryCanonical (writeInbuf off bytes s) := by
  unfold writeInbuf
  split
  · exact .fault
  · split
    · exact .next hs
    · obtain ⟨hin, hrest⟩ := hs
      exact .next ⟨writeBytes_wf hin _ _, hrest⟩

theorem hostReadInbuf_canonical (off n : Nat) (hs : s.MemoryCanonical) :
    EveryNext State.MemoryCanonical (hostReadInbuf off n s) := by
  unfold hostReadInbuf
  split
  · exact .fault
  · cases readInbuf off n s with
    | none => exact .refused
    | some bs => exact .next hs

theorem hostReadOutbuf_canonical (off n : Nat) (hs : s.MemoryCanonical) :
    EveryNext State.MemoryCanonical (hostReadOutbuf off n s) := by
  unfold hostReadOutbuf
  split
  · exact .fault
  · split
    · exact .refused
    · cases s.outbuf.readBytes off n with
      | none => exact .refused
      | some bs => exact .next hs

/-- After a reset the arrays list nothing (R26). -/
theorem resetBlock_canonical (s : State) : (resetBlock s).MemoryCanonical :=
  ⟨.nil, .nil, .nil, .nil, .nil⟩

/-- Every action of the host keeps the canonical form; taking it from the queue touches no array. -/
theorem hostAct_canonical (a : HostAction) (rest : List HostAction) (hs : s.MemoryCanonical) :
    EveryNext State.MemoryCanonical (hostAct a rest s) := by
  have hrest : (setHostq rest s).MemoryCanonical := hs
  cases a with
  | cmd v =>
    simp only [hostAct]
    split
    · exact .next hs
    · exact fun t h => runCommand_canonical hrest h
  | wr n v => exact .next (writeRegNumber_canonical n v hrest)
  | rd n => exact .next hs
  | wrIn off bytes => exact writeInbuf_canonical off bytes hrest
  | rdIn off n => exact hostReadInbuf_canonical off n hrest
  | rdOut off n => exact hostReadOutbuf_canonical off n hrest
  | wait =>
    simp only [hostAct]
    split
    · exact seqStep_canonical hs
    · exact .next hs
  | tick => exact seqStep_canonical hrest
  | rst => exact .next (resetBlock_canonical _)

end

/-- Settles O56: a step is a transition of the sequencer or an action of the host. -/
theorem stepKeepsMemoryCanonical : Obligations.StepKeepsMemoryCanonical := by
  intro s t hs h
  cases hq : s.hostq with
  | nil => exact seqStep_canonical hs t (step_of_idle_host hq ▸ h)
  | cons a rest => exact hostAct_canonical a rest hs t (step_of_hostAct hq ▸ h)

end Sys2Proof.Machine

/-! # The command byte, the mode byte and the reserved codes: O1, O2, O12, O46 -/

namespace Sys2Proof.Machine

/-! ## The command byte -/

/-- The law made instruction by instruction, as one statement about every command (R70). -/
theorem codeIsItsOwn (i : Instr) : Laws.CodeIsItsOwn.Statement i := by
  cases i with
  | crc16 => exact Laws.CodeIsItsOwn.crc16
  | build => exact Laws.CodeIsItsOwn.build
  | parse => exact Laws.CodeIsItsOwn.parse
  | send => exact Laws.CodeIsItsOwn.send
  | receive => exact Laws.CodeIsItsOwn.receive
  | cryptblock => exact Laws.CodeIsItsOwn.cryptblock
  | reqsize => exact Laws.CodeIsItsOwn.reqsize
  | ctxset => exact Laws.CodeIsItsOwn.ctxset
  | encrypt => exact Laws.CodeIsItsOwn.encrypt
  | decrypt => exact Laws.CodeIsItsOwn.decrypt

theorem decode_eq_ok_iff (v : Byte) (i : Instr) : decode v = .ok i ↔ v = encode i := by
  obtain ⟨_, _, _, hcode⟩ := codeIsItsOwn i
  exact hcode v

/-- Settles O1, by the law of each command's code. -/
theorem commandByteRoundTrip : Obligations.CommandByteRoundTrip := decode_eq_ok_iff

/-- A reserved code (R71) is outside the range 1 to 10 of the commands' codes. -/
theorem ne_encode_of_reserved {v : Byte} (h : v = 0x00 ∨ 0x0B ≤ v.toNat) (i : Instr) : v ≠ encode i := by
  obtain ⟨_, hlow, hhigh, _⟩ := codeIsItsOwn i
  rintro rfl
  rcases h with hzero | hlarge
  · simp [hzero] at hlow
  · omega

/-- The only error of the decoder on one byte names that byte. -/
theorem decode_error {v : Byte} {e : DecodeError} (h : decode v = .error e) : e = .reservedCode v := by
  unfold decode at h
  split at h <;> cases h
  rfl

theorem decode_of_reserved {v : Byte} (h : v = 0x00 ∨ 0x0B ≤ v.toNat) : decode v = .error (.reservedCode v) := by
  cases hd : decode v with
  | ok i => exact absurd ((decode_eq_ok_iff v i).mp hd) (ne_encode_of_reserved h i)
  | error e => rw [decode_error hd]

/-- Settles O2: the ten codes are those of `encode`. -/
theorem commandCodesOfTheTable : Obligations.CommandCodesOfTheTable :=
  ⟨decode_encode .crc16, decode_encode .build, decode_encode .parse, decode_encode .send, decode_encode .receive,
    decode_encode .cryptblock, decode_encode .reqsize, decode_encode .ctxset, decode_encode .encrypt,
    decode_encode .decrypt, fun _ => decode_of_reserved⟩

/-! ## The mode byte -/

theorem bitOfDirection_toNat_lt (dir : Direction) : (bitOfDirection dir).toNat < 2 ^ 6 := by
  cases dir <;> decide

/-- The key index stays within the byte when it is shifted, and the direction bit falls in the bits it leaves free, so
the `or` of R68 is a sum. -/
theorem modeByte_toNat {keyIdx : Byte} (dir : Direction) (h : keyIdx.toNat ≤ 3) :
    (modeByte keyIdx dir).toNat = 64 * keyIdx.toNat + (bitOfDirection dir).toNat := by
  have hshift : (keyIdx <<< 6).toNat = 2 ^ 6 * keyIdx.toNat := by
    rw [BitVec.toNat_shiftLeft, Nat.shiftLeft_eq]
    omega
  rw [modeByte, BitVec.toNat_or, hshift, ← Nat.two_pow_add_eq_or_of_lt (bitOfDirection_toNat_lt dir)]

/-- Settles O12: the law of the sum, and the eight values by evaluation. -/
theorem modeByteValues : Obligations.ModeByteValues :=
  ⟨fun _ dir h => modeByte_toNat dir h, by decide⟩

/-! ## A reserved code -/

theorem usesWork_of_reserved {v : Byte} (h : v = 0x00 ∨ 0x0B ≤ v.toNat) : usesWork v = false := by
  simp [usesWork, ne_encode_of_reserved h]

theorem runCommand_of_reserved {v : Byte} (s : State) (h : v = 0x00 ∨ 0x0B ≤ v.toNat) :
    runCommand v s = .next (reservedCommand v s) := by
  simp only [runCommand, decode_of_reserved h]

/-- The completion overwrites what the sequencer's way to it, through `S_FAIL` and `S_FINISH`, leaves in `SEQ` and in
the latch of the error. -/
theorem finishCommand_after_seqFail (e : Err) (s : State) :
    finishCommand (seqGoto .sFinish (writeError e (seqFail e s))) = errorCompletion e s := by
  have hcur : (seqGoto .sFinish (writeError e (seqFail e s))).cur = (writeError e s).cur := rfl
  rw [errorCompletion, finishCommand, finishCommand, hcur]
  split
  · rfl
  · rfl

/-- The sequencer takes a reserved code through `S_VALIDATE`, `S_FAIL` and `S_FINISH` (R160, R162). -/
theorem seqRun_of_reserved {v : Byte} (s : State) (h : v = 0x00 ∨ 0x0B ≤ v.toNat) :
    seqRun 3 (startCommand v s) = .next (reservedCommand v s) := by
  have hvalidate : seqStep (startCommand v s) = .next (seqFail .invalidParameter (startCommand v s)) := by
    simp [seqStep, seqValidate, decode_of_reserved h]
  have hfail : ∀ u, seqStep (seqFail .invalidParameter u) =
      .next (seqGoto .sFinish (writeError .invalidParameter (seqFail .invalidParameter u))) := fun _ => rfl
  have hfinish : ∀ u, seqStep (seqGoto .sFinish u) = .next (finishCommand (seqGoto .sFinish u)) := fun _ => rfl
  simp only [seqRun, hvalidate, hfail, hfinish, finishCommand_after_seqFail, reservedCommand]

/-- Settles O46: the step is the error completion of the command just started, which never owned `WORK`. -/
theorem reservedCodeOnlyReportsAnError : Obligations.ReservedCodeOnlyReportsAnError := by
  intro s v rest hq hb hv
  have hstep : Sys2Proof.Machine.step s = .next (reservedCommand v (setHostq rest s)) := by
    rw [step_of_hostAct hq, hostAct_cmd_of_idle hb, runCommand_of_reserved _ hv]
  have hrun : ∃ n, seqRun n (startCommand v { s with hostq := rest }) = .next (reservedCommand v (setHostq rest s)) :=
    ⟨3, seqRun_of_reserved _ hv⟩
  refine ⟨_, hstep, ?_⟩
  simpa [reservedCommand, errCode, errDevstat, usesWork_of_reserved hv, KeepsContext, KeepsBus, KeepsHidden, KeepsTx,
    KeepsRx, KeepsWork] using hrun

end Sys2Proof.Machine

/-! # The CRC engine: O3 to O6, O13

The bit step is one linear map, `tableStep`, of the register with the data bit added to its top bit
(`crcStep_eq_tableStep`). So a byte is eight times that map after the reversed byte has been added to the high byte of the
register (`crcByte_eq_iterate`), which is what the table tabulates; and linearity and injectivity of the map carry over to
the CRC of a string. -/

namespace Sys2Proof.Machine

/-! ## The bit step (R91) -/

theorem shiftLeft_one_eq_ofNat (r : Word16) : r <<< 1 = BitVec.ofNat 16 (r.toNat * 2 % 65536) := by
  apply BitVec.eq_of_toNat_eq
  simp [Nat.shiftLeft_eq]

/-- Settles O3: the shift as arithmetic, the byte by evaluation, the string by its last byte. -/
theorem crcBitStep : Obligations.CrcBitStep := by
  refine ⟨fun r d => ?_, fun _ _ => rfl, rfl, fun data b => ?_⟩
  · simp only [crcStep, shiftLeft_one_eq_ofNat, bne_iff_ne]
    rfl
  · simp [crcReg]

/-! ## The linear map behind the bit step -/

/-- A data bit, at the place where the bit step adds it to the register (R91). -/
def topBit (d : Bool) : Word16 := (BitVec.ofBool d).setWidth 16 <<< 15

theorem topBit_xor (d e : Bool) : topBit (d ^^ e) = topBit d ^^^ topBit e := by
  cases d <;> cases e <;> rfl

theorem getLsbD_topBit (d : Bool) (i : Nat) : (topBit d).getLsbD i = (decide (i = 15) && d) := by
  rcases lt_trichotomy i 15 with h | rfl | h
  · simp [topBit, h, h.ne]
  · simp [topBit]
  · have hout : ¬ i < 16 := by omega
    simp [topBit, hout, h.ne']

theorem topBit_shiftLeft (d : Bool) : topBit d <<< 1 = 0#16 := by cases d <;> rfl

theorem crcStep_eq_tableStep (r : Word16) (d : Bool) : crcStep r d = tableStep (r ^^^ topBit d) := by
  have hshift : (r ^^^ topBit d) <<< 1 = r <<< 1 := by
    rw [BitVec.shiftLeft_xor_distrib, topBit_shiftLeft, BitVec.xor_zero]
  have htop : (r ^^^ topBit d).getLsbD 15 = (d != r.getLsbD 15) := by
    rw [BitVec.getLsbD_xor, getLsbD_topBit]
    exact Bool.xor_comm _ _
  rw [tableStep, hshift, htop, crcStep]

/-- What the bit shifted out adds to the register. -/
def feedback (d : Bool) : Word16 := if d then Param.crcPoly else 0

theorem feedback_xor (d e : Bool) : feedback (d ^^ e) = feedback d ^^^ feedback e := by
  cases d <;> cases e <;> rfl

/-- Bit 0 of the polynomial is set. -/
theorem getElem_feedback_zero (d : Bool) : (feedback d)[0] = d := by cases d <;> rfl

theorem tableStep_eq_feedback (t : Word16) : tableStep t = t <<< 1 ^^^ feedback (t.getLsbD 15) := by
  unfold tableStep
  cases t.getLsbD 15
  · exact BitVec.xor_zero.symm
  · rfl

theorem xor_xor_swap (w x y z : Word16) : w ^^^ x ^^^ (y ^^^ z) = w ^^^ y ^^^ (x ^^^ z) := by ac_rfl

theorem tableStep_xor (a b : Word16) : tableStep (a ^^^ b) = tableStep a ^^^ tableStep b := by
  simp only [tableStep_eq_feedback, BitVec.getLsbD_xor, BitVec.shiftLeft_xor_distrib, feedback_xor]
  exact xor_xor_swap _ _ _ _

/-- The bit shifted out comes back as bit 0, so it is not lost. -/
theorem tableStep_injective : Function.Injective tableStep := by
  intro a b h
  simp only [tableStep_eq_feedback] at h
  have htop : a.getLsbD 15 = b.getLsbD 15 := by
    simpa [getElem_feedback_zero] using congrArg (fun x : Word16 => x[0]) h
  rw [htop, BitVec.xor_left_inj] at h
  ext i hi
  by_cases h15 : i = 15
  · simpa [h15] using htop
  · have hbit := congrArg (fun x : Word16 => x.getLsbD (i + 1)) h
    simpa [show i + 1 < 16 by omega] using hbit

theorem iterate_tableStep_xor (n : Nat) (a b : Word16) :
    tableStep^[n] (a ^^^ b) = tableStep^[n] a ^^^ tableStep^[n] b := by
  induction n with
  | zero => rfl
  | succ n ih => simp only [Function.iterate_succ_apply', ih, tableStep_xor]

theorem tableStep_of_top_clear {x : Word16} (h : x.getLsbD 15 = false) : tableStep x = x <<< 1 := by
  rw [tableStep, h]
  rfl

/-- While the bits shifted out are 0 the map is a shift. -/
theorem iterate_tableStep_ushiftRight (n : Nat) (y : Word16) : tableStep^[n] (y >>> n) = y >>> n <<< n := by
  induction n generalizing y with
  | zero => simp
  | succ n ih =>
    have htop : (y >>> 1 >>> n <<< n).getLsbD 15 = false := by
      have hout : n ≤ 15 → y.getLsbD (1 + (n + (15 - n))) = false := fun _ => BitVec.getLsbD_of_ge y _ (by omega)
      simpa using hout
    rw [Function.iterate_succ_apply', Nat.add_comm n 1, BitVec.shiftRight_add, ih, tableStep_of_top_clear htop,
      Nat.add_comm 1 n, BitVec.shiftLeft_add]

/-- A data bit that starts `n` places lower is at the top after `n` steps. -/
theorem iterate_tableStep_topBit (d : Bool) {n : Nat} (hn : n ≤ 15) : tableStep^[n] (topBit d >>> n) = topBit d := by
  rw [iterate_tableStep_ushiftRight]
  apply BitVec.eq_of_getLsbD_eq
  intro i hi
  by_cases hlow : i < n
  · have hbit : i ≠ 15 := by omega
    simp [getLsbD_topBit, hlow, hbit]
  · have hindex : n + (i - n) = i := by omega
    simp [hlow, hi, hindex]

/-! ## A byte (R92) -/

/-- The first `n` data bits of a byte, the last of them lowest: `rev8` after `n` of its 8 rounds. -/
def revRounds (b : Byte) (n : Nat) : Byte :=
  (List.range n).foldl (fun acc i => (acc <<< 1) ||| (BitVec.ofBool (b.getLsbD i)).setWidth 8) 0

theorem revRounds_eight (b : Byte) : revRounds b 8 = rev8 b := rfl

theorem revRounds_succ (b : Byte) (n : Nat) :
    revRounds b (n + 1) = revRounds b n <<< 1 ||| (BitVec.ofBool (b.getLsbD n)).setWidth 8 := by
  simp [revRounds, List.range_succ]

/-- One more data bit, with those before it kept at the top of a word. -/
theorem revRounds_succ_aligned (b : Byte) {n : Nat} (hn : n < 8) :
    (revRounds b (n + 1)).setWidth 16 <<< (16 - (n + 1)) =
      (revRounds b n).setWidth 16 <<< (16 - n) ^^^ topBit (b.getLsbD n) >>> n := by
  rw [revRounds_succ]
  apply BitVec.eq_of_getLsbD_eq
  intro i hi
  rcases lt_trichotomy i (15 - n) with h | rfl | h
  · have habove : i < 16 - n := by omega
    have hbit : n + i ≠ 15 := by omega
    simp [getLsbD_topBit, h, habove, hbit]
  · have habove : 15 - n < 16 - n := by omega
    have hbit : n + (15 - n) = 15 := by omega
    simp [getLsbD_topBit, habove, hbit, hi, -BitVec.getLsbD_eq_getElem]
  · have hbelow : ¬ i < 15 - n ∧ ¬ i < 16 - n := by omega
    have hbit : n + i ≠ 15 ∧ i - (15 - n) ≠ 0 := by omega
    have hindex : i - (15 - n) - 1 = i - (16 - n) := by omega
    have hin : i - (15 - n) < 8 ∧ i - (15 - n) < 16 ∧ i - (16 - n) < 16 := by omega
    simp [getLsbD_topBit, hbelow, hbit, hindex, hin, hi, -BitVec.getLsbD_eq_getElem]

/-- The data bits may be added to the register before the steps instead of one at each. -/
theorem foldl_crcStep_eq_iterate (r : Word16) (b : Byte) {n : Nat} (hn : n ≤ 8) :
    (List.range n).foldl (fun acc i => crcStep acc (b.getLsbD i)) r =
      tableStep^[n] (r ^^^ (revRounds b n).setWidth 16 <<< (16 - n)) := by
  induction n with
  | zero => simp [revRounds]
  | succ n ih =>
    rw [List.range_succ, List.foldl_append, ih (by omega)]
    simp only [List.foldl_cons, List.foldl_nil]
    rw [crcStep_eq_tableStep, revRounds_succ_aligned b (by omega), Function.iterate_succ_apply', ← BitVec.xor_assoc,
      iterate_tableStep_xor n (_ ^^^ _), iterate_tableStep_topBit _ (by omega)]

theorem crcByte_eq_iterate (r : Word16) (b : Byte) :
    crcByte r b = tableStep^[8] (r ^^^ (rev8 b).setWidth 16 <<< 8) := by
  rw [← revRounds_eight]
  exact foldl_crcStep_eq_iterate r b le_rfl

theorem crcTable_eq_iterate (x : Byte) : crcTable x = tableStep^[8] (x.setWidth 16 <<< 8) := by
  rw [crcTable, List.foldl_const, List.length_range]

/-- Adding a byte at the top of a word is adding it to the high byte; the low byte stands beside it. -/
theorem xor_topByte (r : Word16) (b : Byte) :
    r ^^^ b.setWidth 16 <<< 8 = r <<< 8 >>> 8 ^^^ (hiByte r ^^^ b).setWidth 16 <<< 8 := by
  ext i hi
  by_cases hlow : i < 8
  · have hin : 8 + i < 16 := by omega
    simp [hlow, hin]
  · have hout : ¬ 8 + i < 16 := by omega
    have hindex : 8 + (i - 8) = i := by omega
    have hin : i - 8 < 8 := by omega
    simp [hiByte, hlow, hout, hin, hindex, BitVec.getLsbD_eq_getElem hi]

/-- Eight steps only shift the low byte up. -/
theorem iterate_tableStep_lowByte (r : Word16) : tableStep^[8] (r <<< 8 >>> 8) = r <<< 8 := by
  rw [iterate_tableStep_ushiftRight]
  ext i hi
  have hin : 8 + (i - 8) < 16 := by omega
  simp [hin]

theorem crcByteByTable_eq_crcByte (r : Word16) (b : Byte) : crcByteByTable r b = crcByte r b := by
  rw [crcByteByTable, crcTable_eq_iterate, crcByte_eq_iterate, xor_topByte, iterate_tableStep_xor,
    iterate_tableStep_lowByte]

/-- Settles O4: the byte steps agree, so their folds are one. -/
theorem tableDrivenCrcAgrees : Obligations.TableDrivenCrcAgrees := by
  have hfun : crcByteByTable = crcByte := funext fun r => funext (crcByteByTable_eq_crcByte r)
  exact ⟨crcByteByTable_eq_crcByte, fun data => by rw [hfun, crcReg]⟩

/-! ## Linearity (R94 a) -/

theorem crcStep_xor (r s : Word16) (d e : Bool) :
    crcStep (r ^^^ s) (d ^^ e) = crcStep r d ^^^ crcStep s e := by
  rw [crcStep_eq_tableStep, crcStep_eq_tableStep, crcStep_eq_tableStep, topBit_xor, xor_xor_swap, tableStep_xor]

theorem crcByte_xor (r s : Word16) (b c : Byte) : crcByte (r ^^^ s) (b ^^^ c) = crcByte r b ^^^ crcByte s c := by
  simp only [crcByte, BitVec.getLsbD_xor]
  exact List.foldl_hom₂ _ (· ^^^ ·) _ _ _ r s fun x y i => (crcStep_xor x y _ _).symm

theorem foldl_crcByte_xor {a b : Bytes} (h : a.length = b.length) (r s : Word16) :
    (xorBytes a b).foldl crcByte (r ^^^ s) = a.foldl crcByte r ^^^ b.foldl crcByte s := by
  induction a generalizing b r s with
  | nil => cases b with
    | nil => rfl
    | cons => cases h
  | cons x a ih => cases b with
    | nil => cases h
    | cons y b =>
      have hstep := crcByte_xor r s x y
      simp only [xorBytes, List.zipWith_cons_cons, List.foldl_cons, hstep]
      exact ih (Nat.succ.inj h) _ _

theorem crcReg_xorBytes {a b : Bytes} (h : a.length = b.length) : crcReg (xorBytes a b) = crcReg a ^^^ crcReg b :=
  foldl_crcByte_xor h Param.crcInit Param.crcInit

/-- The zeros are their own exclusive or, so their CRC is too. -/
theorem crcReg_zeros (n : Nat) : crcReg (rep 0 n) = 0 := by
  have hself : xorBytes (rep 0 n) (rep 0 n) = rep 0 n := by
    rw [xorBytes, rep, List.zipWith_replicate', BitVec.xor_self]
    rfl
  rw [← hself, crcReg_xorBytes rfl, BitVec.xor_self]
  rfl

/-- Settles O5: linearity by the fold, the zeros by linearity. -/
theorem crcIsLinear : Obligations.CrcIsLinear := by
  refine ⟨fun a b => crcReg_xorBytes, fun n => ?_⟩
  rw [crc16, crcReg_zeros]
  rfl

/-! ## The two bytes of a word (R93) -/

/-- A word is put together from its two bytes. -/
theorem loByte_or_hiByte (v : Word16) : (loByte v).setWidth 16 ||| ((hiByte v).setWidth 16 <<< 8) = v := by
  ext i hi
  by_cases hlow : i < 8
  · simp [loByte, hlow, BitVec.getLsbD_eq_getElem hi]
  · have hindex : 8 + (i - 8) = i := by omega
    have hin : i - 8 < 8 := by omega
    simp [loByte, hiByte, hlow, hin, hindex, BitVec.getLsbD_eq_getElem hi]

theorem bytesOfWord_injective : Function.Injective bytesOfWord := by
  intro v w h
  obtain ⟨hlo, hhi⟩ : loByte v = loByte w ∧ hiByte v = hiByte w := by simpa [bytesOfWord] using h
  rw [← loByte_or_hiByte v, hlo, hhi, loByte_or_hiByte]

/-! ## Single bit flips (R94 b) -/

theorem crcByte_injective (b : Byte) : Function.Injective (crcByte · b) := by
  intro r s h
  simp only [crcByte_eq_iterate] at h
  exact (BitVec.xor_left_inj _).1 (tableStep_injective.iterate 8 h)

theorem foldl_crcByte_injective (data : Bytes) : Function.Injective (data.foldl crcByte) := by
  induction data with
  | nil => exact Function.injective_id
  | cons b data ih => exact ih.comp (crcByte_injective b)

theorem crcByte_oneBit_ne_zero : ∀ k < 8, crcByte 0 (1#8 <<< k) ≠ 0 := by decide

/-- By linearity the flip adds the CRC of the one bit to the register. -/
theorem crcByte_flip_ne (r : Word16) (b : Byte) {k : Nat} (hk : k < 8) :
    crcByte r (b ^^^ 1#8 <<< k) ≠ crcByte r b := by
  have hadd : crcByte r (b ^^^ 1#8 <<< k) = crcByte r b ^^^ crcByte 0 (1#8 <<< k) := by
    rw [← crcByte_xor]
    exact congrArg (crcByte · _) BitVec.xor_zero.symm
  rw [hadd]
  intro h
  exact crcByte_oneBit_ne_zero k hk (by simpa using h)

theorem crcReg_flipBit_ne {data : Bytes} {i k : Nat} (hi : i < data.length) (hk : k < 8) :
    crcReg (flipBit data i k) ≠ crcReg data := by
  have hdata : data = data.take i ++ data[i] :: data.drop (i + 1) := by simp
  have hflip : flipBit data i k = data.take i ++ (data[i] ^^^ 1#8 <<< k) :: data.drop (i + 1) :=
    List.modify_eq_take_cons_drop hi
  rw [hflip]
  conv_rhs => rw [hdata]
  simp only [crcReg, List.foldl_append, List.foldl_cons]
  exact (foldl_crcByte_injective _).ne (crcByte_flip_ne _ _ hk)

/-- Settles O6: the registers differ after the flipped byte, and what follows keeps them apart. -/
theorem crcDetectsEverySingleBitFlip : Obligations.CrcDetectsEverySingleBitFlip :=
  fun _ _ _ hi hk => bytesOfWord_injective.ne (crcReg_flipBit_ne hi hk)

/-! ## The command (R95) -/

theorem validateCrc16_eq_none {s : State} : validateCrc16 s = none ↔ s.ops.inlen.toNat ≤ s.cfg.bufCap := by
  simp [validateCrc16, firstError_eq_none_iff]

theorem exec_crc16_of_too_long {s : State} (h : s.cfg.bufCap < s.ops.inlen.toNat) :
    exec .crc16 s = .next (errorCompletion .invalidParameter (startCommand (encode .crc16) s)) := by
  have hv : validate .crc16 s = some .invalidParameter := by simp [validate, validateCrc16, firstError, h]
  rw [exec_of_invalid ((validate_startCommand _ _ s).trans hv)]
  rfl

theorem exec_crc16_of_read {s : State} {data : Bytes} (h : s.ops.inlen.toNat ≤ s.cfg.bufCap)
    (hread : readInbuf 0 s.ops.inlen.toNat s = some data) :
    exec .crc16 s = .next (finishCommand
      (setCrcout (crcReg data) (setCrcreg (crcReg data) (startCommand (encode .crc16) s)))) := by
  have hv : validate .crc16 s = none := validateCrc16_eq_none.2 h
  have hstart : readInbuf 0 (startCommand (encode .crc16) s).ops.inlen.toNat (startCommand (encode .crc16) s) = some data :=
    hread
  rw [exec_of_valid ((validate_startCommand _ _ s).trans hv), attemptChecked, hstart]
  simp only [Option.map_some, loByte_or_hiByte]
  rfl

/-- CRC16 does not own `WORK`. -/
theorem usesWork_crc16 : usesWork (encode .crc16) = false := rfl

/-- Settles O13: both completions, field by field. -/
theorem crc16CommandMeaning : Obligations.Crc16CommandMeaning := by
  intro s
  refine ⟨fun h => ⟨_, exec_crc16_of_too_long h, ?_⟩, fun data h hread => ⟨_, exec_crc16_of_read h hread, ?_⟩⟩
  · simp [FailedWith, Completed, KeepsHostOwned, usesWork_crc16, KeepsContext, KeepsBus, KeepsHidden, KeepsTx,
      KeepsRx, KeepsWork, errCode, errDevstat]
  · simp [Succeeded, Completed, KeepsHostOwned, usesWork_crc16, crc16, KeepsContext, KeepsBus, KeepsTx,
      KeepsRx, KeepsWork]

end Sys2Proof.Machine

/-! # Frames: O7 to O11, O14, O15

The parser looks at the count, then at the CRC; `countOk_eq_true_iff` and the three answers of `parseResponse` say so once.
A flipped bit stays where it is in the frame, so it is seen by the count, by the CRC of the bytes before the last two, or in
these two themselves. -/

namespace Sys2Proof.Machine

/-! ## The layout of a built frame (R102) -/

theorem commandFrame_eq_body_crc (cfg : Config) (op p1 : Byte) (p2 : Word16) (payload : Bytes) :
    commandFrame cfg op p1 p2 payload =
      (cfg.wordAddrCmd :: frameBody cfg op p1 p2 payload) ++ crc16 (frameBody cfg op p1 p2 payload) := rfl

theorem commandFrame_eq_header_payload (cfg : Config) (op p1 : Byte) (p2 : Word16) (payload : Bytes) :
    commandFrame cfg op p1 p2 payload =
      [cfg.wordAddrCmd, BitVec.ofNat 8 (6 + payload.length + cfg.countSelf.toNat), op, p1, loByte p2, hiByte p2] ++
        (payload ++ crc16 (frameBody cfg op p1 p2 payload)) := by
  simp [commandFrame, frameBody, bytesOfWord]

theorem commandFrame_crc (cfg : Config) (op p1 : Byte) (p2 : Word16) (payload : Bytes) :
    (commandFrame cfg op p1 p2 payload).drop (6 + payload.length) =
      crc16 (((commandFrame cfg op p1 p2 payload).drop 1).take (5 + payload.length)) := by
  have hbody : ((commandFrame cfg op p1 p2 payload).drop 1).take (5 + payload.length) = frameBody cfg op p1 p2 payload :=
    List.take_left' (frameBody_length cfg op p1 p2 payload)
  rw [hbody, commandFrame_eq_body_crc]
  exact List.drop_left' (by rw [List.length_cons, frameBody_length]; omega)

/-- Settles O7: the header byte by byte, then the payload, then the CRC; at most 247 bytes of payload leave room for the
count in a byte. -/
theorem builtFrameLayout : Obligations.BuiltFrameLayout := by
  intro cfg op p1 p2 payload hlegal hlen
  have hmax : cfg.maxPayload = 247 := hlegal.1
  have hself := cfg.countSelf.toNat_le
  have hlength := commandFrame_length cfg op p1 p2 payload
  have hcrc := commandFrame_crc cfg op p1 p2 payload
  have hsplit := commandFrame_eq_header_payload cfg op p1 p2 payload
  have hcount : (BitVec.ofNat 8 (6 + payload.length + cfg.countSelf.toNat)).toNat =
      (commandFrame cfg op p1 p2 payload).length - 2 + cfg.countSelf.toNat := by
    rw [hlength, BitVec.toNat_ofNat]
    omega
  have hpayload : ((commandFrame cfg op p1 p2 payload).drop 6).take payload.length = payload := by
    rw [hsplit]
    exact List.take_left
  refine ⟨hlength, by omega, by omega, ?_, ⟨_, ?_, hcount⟩, ?_, ?_, ?_, ?_, hpayload, hcrc⟩ <;> rw [hsplit] <;> rfl

/-! ## The parser (R103) -/

theorem countOk_eq_true_iff {cfg : Config} {raw : Bytes} :
    countOk cfg raw = true ↔
      3 ≤ raw.length ∧ ∃ count, raw[0]? = some count ∧ count.toNat = raw.length - 1 + cfg.countSelf.toNat := by
  cases raw <;> simp [countOk]

theorem countOk_eq_false_of_short {cfg : Config} {raw : Bytes} (h : raw.length < 3) : countOk cfg raw = false :=
  Bool.eq_false_iff.2 fun hc => by have := (countOk_eq_true_iff.1 hc).1; omega

theorem countOk_eq_false_of_count_ne {cfg : Config} {raw : Bytes} {count : Byte} (hcount : raw[0]? = some count)
    (hne : count.toNat ≠ raw.length - 1 + cfg.countSelf.toNat) : countOk cfg raw = false := by
  refine Bool.eq_false_iff.2 fun hc => hne ?_
  obtain ⟨-, count', hcount', heq⟩ := countOk_eq_true_iff.1 hc
  cases hcount.symm.trans hcount'
  exact heq

section
variable {cfg : Config} {raw : Bytes}

theorem parseResponse_of_count_wrong (hcount : countOk cfg raw = false) :
    parseResponse cfg raw = .error .countMismatch := by
  simp [parseResponse, hcount]

theorem parseResponse_of_crc_wrong (hcount : countOk cfg raw = true)
    (hcrc : raw.drop (raw.length - 2) ≠ crc16 (raw.take (raw.length - 2))) :
    parseResponse cfg raw = .error .crcMismatch := by
  simp [parseResponse, hcount, hcrc]

theorem parseResponse_of_valid (hcount : countOk cfg raw = true)
    (hcrc : raw.drop (raw.length - 2) = crc16 (raw.take (raw.length - 2))) :
    parseResponse cfg raw = .ok ((raw.drop 1).take (raw.length - 3)) := by
  simp [parseResponse, hcount, hcrc, List.drop_take, Nat.sub_sub]

/-- Only a string with the right count and the right CRC is accepted. -/
theorem parseResponse_ok {p : Bytes} (h : parseResponse cfg raw = .ok p) :
    countOk cfg raw = true ∧ raw.drop (raw.length - 2) = crc16 (raw.take (raw.length - 2)) := by
  by_cases hcount : countOk cfg raw = true
  · by_cases hcrc : raw.drop (raw.length - 2) = crc16 (raw.take (raw.length - 2))
    · exact ⟨hcount, hcrc⟩
    · simp [parseResponse_of_crc_wrong hcount hcrc] at h
  · simp [parseResponse_of_count_wrong (Bool.eq_false_iff.2 hcount)] at h

/-- Which of the two errors it is says whether the CRC has been computed. -/
theorem parseResponse_error_eq_crcMismatch_iff {e : Err} (h : parseResponse cfg raw = .error e) :
    e = .crcMismatch ↔ countOk cfg raw = true := by
  cases hcount : countOk cfg raw with
  | false =>
    cases (parseResponse_of_count_wrong hcount).symm.trans h
    simp
  | true =>
    have hcrc : raw.drop (raw.length - 2) ≠ crc16 (raw.take (raw.length - 2)) := fun hcrc => by
      simp [parseResponse_of_valid hcount hcrc] at h
    cases (parseResponse_of_crc_wrong hcount hcrc).symm.trans h
    simp

end

/-- Settles O9: each clause is one answer of the parser. -/
theorem parserVerdict : Obligations.ParserVerdict := by
  intro cfg raw
  refine ⟨fun hshort => parseResponse_of_count_wrong (countOk_eq_false_of_short hshort), fun count h3 hcount => ⟨?_, ?_⟩⟩
  · exact fun hne => parseResponse_of_count_wrong (countOk_eq_false_of_count_ne hcount hne)
  · intro heq
    have hok : countOk cfg raw = true := countOk_eq_true_iff.2 ⟨h3, count, hcount, heq⟩
    exact ⟨parseResponse_of_crc_wrong hok, parseResponse_of_valid hok⟩

/-- Settles O8: with at most `253 - COUNT_SELF` bytes of payload the count of the frame fits in a byte. -/
theorem responseFrameParsesBack : Obligations.ResponseFrameParsesBack :=
  fun _ _ h => parseResponse_respFrame (by omega)

/-! ## A flipped bit (R105) -/

@[simp] theorem flipBit_length (data : Bytes) (i k : Nat) : (flipBit data i k).length = data.length :=
  List.length_modify _ _ _

theorem take_flipBit (data : Bytes) (i k n : Nat) : (flipBit data i k).take n = flipBit (data.take n) i k :=
  List.take_modify _ _ _ _

theorem drop_flipBit_of_lt (data : Bytes) {i n : Nat} (k : Nat) (h : i < n) : (flipBit data i k).drop n = data.drop n :=
  List.drop_modify_of_lt _ _ _ _ h

theorem drop_flipBit_of_le (data : Bytes) {i n : Nat} (k : Nat) (h : n ≤ i) :
    (flipBit data i k).drop n = flipBit (data.drop n) (i - n) k :=
  List.drop_modify_of_ge _ _ _ _ h

theorem flipBit_of_length_le {data : Bytes} {i : Nat} (k : Nat) (h : data.length ≤ i) : flipBit data i k = data :=
  List.modify_eq_self h

theorem getElem?_flipBit_same (data : Bytes) (i k : Nat) :
    (flipBit data i k)[i]? = data[i]?.map (fun b => b ^^^ 1#8 <<< k) := by
  simp [flipBit]

theorem getElem?_flipBit_of_ne (data : Bytes) {i j : Nat} (k : Nat) (h : i ≠ j) : (flipBit data i k)[j]? = data[j]? := by
  simp [flipBit, h]

theorem oneBit_ne_zero : ∀ k < 8, 1#8 <<< k ≠ 0#8 := by decide

theorem xor_oneBit_ne (b : Byte) {k : Nat} (hk : k < 8) : b ^^^ 1#8 <<< k ≠ b :=
  fun h => oneBit_ne_zero k hk (by simpa using h)

theorem flipBit_ne {data : Bytes} {i k : Nat} (hi : i < data.length) (hk : k < 8) : flipBit data i k ≠ data := by
  intro h
  have hbyte := getElem?_flipBit_same data i k
  rw [h, List.getElem?_eq_getElem hi] at hbyte
  exact xor_oneBit_ne data[i] hk (Option.some.inj hbyte).symm

theorem countOk_flipBit (cfg : Config) (v : Bytes) {i : Nat} (k : Nat) (hi : 1 ≤ i) :
    countOk cfg (flipBit v i k) = countOk cfg v := by
  rw [Bool.eq_iff_iff, countOk_eq_true_iff, countOk_eq_true_iff, flipBit_length, getElem?_flipBit_of_ne v k (by omega)]

/-- A flip in the last `v.length - n` bytes leaves the CRC of the `n` before them and changes what stands in its place; a
flip before them changes the CRC (R94 b) and leaves what stands in its place. -/
theorem crc_wrong_of_flipBit {v : Bytes} {n i k : Nat} (hn : n ≤ v.length) (hi : i < v.length) (hk : k < 8)
    (hcrc : v.drop n = crc16 (v.take n)) : (flipBit v i k).drop n ≠ crc16 ((flipBit v i k).take n) := by
  rw [take_flipBit]
  by_cases hin : i < n
  · rw [drop_flipBit_of_lt v k hin, hcrc]
    exact (crcDetectsEverySingleBitFlip _ i k (by rw [List.length_take]; omega) hk).symm
  · rw [drop_flipBit_of_le v k (by omega), flipBit_of_length_le (data := v.take n) k (by rw [List.length_take]; omega), ← hcrc]
    exact flipBit_ne (by rw [List.length_drop]; omega) hk

/-- Settles O10: the count is still right, and the CRC is not. -/
theorem tamperedResponseIsCrcMismatch : Obligations.TamperedResponseIsCrcMismatch := by
  intro cfg v p i k hv hi1 hi hk
  obtain ⟨hcount, hcrc⟩ := parseResponse_ok hv
  apply parseResponse_of_crc_wrong
  · rw [countOk_flipBit cfg v k hi1, hcount]
  · rw [flipBit_length]
    exact crc_wrong_of_flipBit (by omega) hi hk hcrc

/-- Settles O11: the flipped count is another number, and the count that was right is one too many for the shorter
string. -/
theorem tamperedCountIsCountMismatch : Obligations.TamperedCountIsCountMismatch := by
  intro cfg v p k hv
  obtain ⟨h3, count, hcount, heq⟩ := countOk_eq_true_iff.1 (parseResponse_ok hv).1
  refine ⟨fun hk => ?_, ?_⟩ <;> apply parseResponse_of_count_wrong
  · have hflipped : (flipBit v 0 k)[0]? = some (count ^^^ 1#8 <<< k) := by rw [getElem?_flipBit_same, hcount]; rfl
    refine countOk_eq_false_of_count_ne hflipped ?_
    rw [flipBit_length, ← heq]
    exact fun h => xor_oneBit_ne count hk (BitVec.eq_of_toNat_eq h)
  · have hkept : v.dropLast[0]? = some count := by rw [List.getElem?_dropLast, if_pos (by omega), hcount]
    refine countOk_eq_false_of_count_ne hkept ?_
    rw [List.length_dropLast]
    omega

/-! ## A command that fails a check (R173) -/

/-- A failed check completes a command that has only started, so that nothing but the result registers and `BLK` changes.
Left out are ENCRYPT and DECRYPT, whose completion wipes `WORK` (R23), and CTXSET, whose failure clears `CTX_VALID`. -/
theorem exec_of_failed_check {i : Instr} {s : State} {e : Err} (hi : i ≠ .ctxset) (hwork : usesWork (encode i) = false)
    (h : validate i s = some e) :
    ∃ t, exec i s = .next t ∧ FailedWith i e s t ∧ KeepsHostOwned s t ∧ KeepsContext s t ∧ KeepsBus s t ∧
      KeepsHidden s t := by
  refine ⟨_, exec_of_invalid ((validate_startCommand _ _ s).trans h), ?_⟩
  simp [complete, hi, FailedWith, Completed, KeepsHostOwned, hwork, KeepsContext, KeepsBus, KeepsHidden, KeepsTx, KeepsRx,
    KeepsWork]

/-! ## BUILD (R101) -/

theorem validateBuild_eq_invalidParameter {s : State}
    (h : s.cfg.bufCap < s.ops.inlen.toNat ∨ s.cfg.bufCap < s.ops.outcap.toNat ∨ s.cfg.maxPayload < s.ops.inlen.toNat) :
    validateBuild s = some .invalidParameter := by
  rcases h with h | h | h <;> simp [validateBuild, firstError, capacityExceeded, h]

theorem validateBuild_eq_outputTooSmall {s : State} (hin : s.ops.inlen.toNat ≤ s.cfg.bufCap)
    (hout : s.ops.outcap.toNat ≤ s.cfg.bufCap) (hmax : s.ops.inlen.toNat ≤ s.cfg.maxPayload)
    (hsmall : s.ops.outcap.toNat < 8 + s.ops.inlen.toNat) : validateBuild s = some .outputTooSmall := by
  simp [validateBuild, firstError, capacityExceeded_eq_false.2 ⟨hin, hout⟩, Nat.not_lt.2 hmax, hsmall]

theorem usesWork_build : usesWork (encode .build) = false := rfl

/-- A payload that fits is released as its frame, which also stays in `TXBUF` (R100). -/
theorem exec_build_of_read {s : State} {payload : Bytes} (hvalid : validateBuild s = none)
    (hread : readInbuf 0 s.ops.inlen.toNat s = some payload) :
    exec .build s = .next (finishCommand
      (releaseOut (commandFrame s.cfg s.ops.pOpcode s.ops.pParam1 s.ops.pParam2 payload)
        (storeFrame s.ops.pOpcode s.ops.pParam1 s.ops.pParam2 payload (startCommand (encode .build) s)))) := by
  have hv : validate .build s = none := hvalid
  have hstart : readInbuf 0 (startCommand (encode .build) s).ops.inlen.toNat (startCommand (encode .build) s) =
      some payload := hread
  have hlen : payload.length ≤ s.cfg.maxPayload := readBytes_length hread ▸ (validateBuild_eq_none.1 hvalid).2.1
  rw [exec_of_valid ((validate_startCommand _ _ s).trans hv), attemptChecked, hstart, Option.map_some,
    outcomeOf_releasing (by decide)]
  simp [buildCommandFrame, Nat.not_lt.2 hlen]

/-- Settles O14: the failed checks, then the success field by field. -/
theorem buildCommandMeaning : Obligations.BuildCommandMeaning := by
  intro s
  refine ⟨fun h => ?_, fun hin hout hmax hsmall => ?_, fun payload hout hmax hfits hread => ?_⟩
  · exact exec_of_failed_check (by decide) usesWork_build (validateBuild_eq_invalidParameter h)
  · exact exec_of_failed_check (by decide) usesWork_build (validateBuild_eq_outputTooSmall hin hout hmax hsmall)
  · have hvalid : validateBuild s = none := validateBuild_eq_none.2 ⟨⟨by omega, hout⟩, hmax, hfits⟩
    have hlen : payload.length = s.ops.inlen.toNat := readBytes_length hread
    have hcap := s.ops.outcap.isLt
    have hmod : (8 + s.ops.inlen.toNat) % 65536 = 8 + s.ops.inlen.toNat := Nat.mod_eq_of_lt (by omega)
    refine ⟨_, exec_build_of_read hvalid hread, ?_⟩
    simp [Succeeded, Completed, storeFrame, Wrote, read_writeBytes, hlen, hmod, KeepsHostOwned, KeepsContext, KeepsBus,
      KeepsRx, KeepsWork, usesWork_build]

/-! ## PARSE (R104) -/

theorem validateParse_eq_invalidParameter {s : State}
    (h : s.cfg.rxCap < s.ops.inlen.toNat ∨ s.cfg.bufCap < s.ops.outcap.toNat) :
    validateParse s = some .invalidParameter := by
  rcases h with h | h <;> simp [validateParse, firstError, h]

theorem validateParse_eq_outputTooSmall {s : State} (hin : s.ops.inlen.toNat ≤ s.cfg.rxCap)
    (hout : s.ops.outcap.toNat ≤ s.cfg.bufCap) (h3 : 3 ≤ s.ops.inlen.toNat)
    (hsmall : s.ops.outcap.toNat < s.ops.inlen.toNat - 3) : validateParse s = some .outputTooSmall := by
  simp [validateParse, firstError, Nat.not_lt.2 hin, Nat.not_lt.2 hout, h3, hsmall]

theorem usesWork_parse : usesWork (encode .parse) = false := rfl

theorem parseEffect_eq_setCrcreg (raw : Bytes) (s : State) :
    parseEffect raw s = setCrcreg (if countOk s.cfg raw then crcReg (raw.take (raw.length - 2)) else s.crcreg) s := by
  unfold parseEffect
  split <;> rfl

/-- The state PARSE leaves to its completion: the string in `RXBUF` and the CRC, if it was computed, in `CRCREG`. -/
def parsed (raw : Bytes) (s : State) : State := parseEffect raw (rxLoad raw (startCommand (encode .parse) s))

theorem parsed_eq (raw : Bytes) (s : State) :
    parsed raw s = setCrcreg (if countOk s.cfg raw then crcReg (raw.take (raw.length - 2)) else s.crcreg)
      (rxLoad raw (startCommand (encode .parse) s)) :=
  parseEffect_eq_setCrcreg raw _

/-- A string that is read is parsed, and its payload or its error completes the command. -/
theorem exec_parse_of_read {s : State} {raw : Bytes} (hvalid : validateParse s = none)
    (hread : readInbuf 0 s.ops.inlen.toNat s = some raw) :
    exec .parse s = outcomeOf .parse (some (releasing (parseResponse s.cfg raw, parsed raw s))) := by
  have hv : validate .parse s = none := hvalid
  have hstart : readInbuf 0 (startCommand (encode .parse) s).ops.inlen.toNat (startCommand (encode .parse) s) =
      some raw := hread
  rw [exec_of_valid ((validate_startCommand _ _ s).trans hv), attemptChecked, hstart]
  rfl

theorem exec_parse_of_ok {s : State} {raw p : Bytes} (hvalid : validateParse s = none)
    (hread : readInbuf 0 s.ops.inlen.toNat s = some raw) (hp : parseResponse s.cfg raw = .ok p) :
    exec .parse s = .next (finishCommand (releaseOut p (parsed raw s))) := by
  rw [exec_parse_of_read hvalid hread, hp, outcomeOf_releasing (by decide)]

theorem exec_parse_of_error {s : State} {raw : Bytes} {e : Err} (hvalid : validateParse s = none)
    (hread : readInbuf 0 s.ops.inlen.toNat s = some raw) (he : parseResponse s.cfg raw = .error e) :
    exec .parse s = .next (errorCompletion e (parsed raw s)) := by
  rw [exec_parse_of_read hvalid hread, he, outcomeOf_releasing (by decide)]

/-- Settles O15: the failed checks, then the two answers of the parser field by field. -/
theorem parseCommandMeaning : Obligations.ParseCommandMeaning := by
  intro s
  refine ⟨fun h => ?_, fun hin hout h3 hsmall => ?_, fun raw hin hout hfits hread => ?_⟩
  · exact exec_of_failed_check (by decide) usesWork_parse (validateParse_eq_invalidParameter h)
  · exact exec_of_failed_check (by decide) usesWork_parse (validateParse_eq_outputTooSmall hin hout h3 hsmall)
  have hvalid : validateParse s = none := validateParse_eq_none.2 ⟨⟨hin, hout⟩, fun _ => by omega⟩
  have hlen : raw.length = s.ops.inlen.toNat := readBytes_length hread
  refine ⟨fun p hp => ⟨_, exec_parse_of_ok hvalid hread hp, ?_⟩, fun e he => ⟨_, exec_parse_of_error hvalid hread he, ?_⟩⟩
  · have hcount := (parseResponse_ok hp).1
    have hplen : p.length % 65536 = p.length := by
      have := parseResponse_length hp
      have := s.ops.inlen.isLt
      exact Nat.mod_eq_of_lt (by omega)
    simp [parsed_eq, Succeeded, Completed, Wrote, read_writeBytes, hlen, hplen, hcount, KeepsHostOwned, KeepsContext,
      KeepsBus, KeepsTx, KeepsWork, usesWork_parse]
  · have hcomputed := parseResponse_error_eq_crcMismatch_iff he
    simp [parsed_eq, FailedWith, Completed, Wrote, read_writeBytes, hlen, hcomputed, KeepsHostOwned, KeepsContext, KeepsBus,
      KeepsTx, KeepsWork, usesWork_parse]

end Sys2Proof.Machine

/-! # A wake before every write: O58

The traces in question are closed under appending, so a command keeps the invariant because each send appends its own wake;
a transition of the sequencer keeps it because only `S_WAKE` leads to `S_TX`, and only `S_TX` writes. -/

namespace Sys2Proof.Machine

/-! ## Traces -/

/-- A list that is in order with no event before it is in order after any event: it does not begin with a write. -/
theorem wakesFirst_of_none {l : List BusEvent} (h : wakesFirst none l) (prev : Option BusEvent) : wakesFirst prev l := by
  cases l with
  | nil => trivial
  | cons e l =>
    obtain ⟨hnone, hrest⟩ := h
    exact ⟨fun f he => (nomatch hnone f he), hrest⟩

theorem wakesFirst_append {prev : Option BusEvent} {l l' : List BusEvent} :
    wakesFirst prev (l ++ l') ↔ wakesFirst prev l ∧ wakesFirst (l.getLast?.or prev) l' := by
  induction l generalizing prev with
  | nil => simp [wakesFirst]
  | cons e l ih =>
    have hlast : ((e :: l).getLast?.or prev) = l.getLast?.or (some e) := by
      cases l <;> simp [List.getLast?_cons]
    rw [List.cons_append, wakesFirst, wakesFirst, ih, hlast, and_assoc]

theorem wakesFirst_of_no_write {prev : Option BusEvent} {l : List BusEvent} (h : ∀ f, .write f ∉ l) :
    wakesFirst prev l := by
  induction l generalizing prev with
  | nil => trivial
  | cons e l ih =>
    exact ⟨fun f he => absurd (he ▸ List.mem_cons_self) (h f), ih fun f hf => h f (List.mem_cons_of_mem e hf)⟩

/-- A receive writes no frame. -/
theorem write_notMem_readEvents (f : Bytes) (e : Nat) (cs : List Bytes) : .write f ∉ readEvents e cs := by
  induction cs generalizing e with
  | nil => simp [readEvents]
  | cons c cs ih => simp [readEvents, ih]

/-! ## The commands -/

/-- From `s` to `t` events are appended in which every write has its wake. -/
def AppendsWakesFirst (s t : State) : Prop := ∃ evs, t.trace = s.trace ++ evs ∧ wakesFirst none evs

theorem AppendsWakesFirst.of_trace_eq {s t : State} (h : t.trace = s.trace) : AppendsWakesFirst s t :=
  ⟨[], by simpa using h, trivial⟩

theorem AppendsWakesFirst.trans {s t u : State} (h : AppendsWakesFirst s t) (h' : AppendsWakesFirst t u) :
    AppendsWakesFirst s u := by
  obtain ⟨evs, htrace, hevs⟩ := h
  obtain ⟨evs', htrace', hevs'⟩ := h'
  exact ⟨evs ++ evs', by rw [htrace', htrace, List.append_assoc],
    wakesFirst_append.2 ⟨hevs, wakesFirst_of_none hevs' _⟩⟩

theorem AppendsWakesFirst.wakesFirst_trace {s t : State} (h : AppendsWakesFirst s t) (hs : wakesFirst none s.trace) :
    wakesFirst none t.trace := by
  obtain ⟨evs, htrace, hevs⟩ := h
  rw [htrace]
  exact wakesFirst_append.2 ⟨hs, wakesFirst_of_none hevs _⟩

theorem buildCommandFrame_trace (op p1 : Byte) (p2 : Word16) (payload : Bytes) (s : State) :
    (buildCommandFrame op p1 p2 payload s).2.trace = s.trace := by
  unfold buildCommandFrame
  split <;> simp [storeFrame]

theorem parseEffect_trace (raw : Bytes) (s : State) : (parseEffect raw s).trace = s.trace := by
  obtain ⟨r, h⟩ := parseEffect_frame raw s
  rw [h, setCrcreg_trace]

theorem receiveEffect_trace (e : Nat) (raw : Bytes) (s : State) : (receiveEffect e raw s).trace = s.trace := by
  obtain ⟨r, h⟩ := receiveEffect_frame e raw s
  rw [h, setCrcreg_trace]

theorem classifyEffect_trace (raw : Bytes) (s : State) : (classifyEffect raw s).trace = s.trace := by
  obtain ⟨r, h⟩ := classifyEffect_frame raw s
  rw [h, setCrcreg_trace]

/-- The one write of a send follows its wake (R110). -/
theorem send_appendsWakesFirst (op p1 : Byte) (p2 : Word16) (payload : Bytes) (s : State) :
    AppendsWakesFirst s (send op p1 p2 payload s).2 := by
  rcases send_spec op p1 p2 payload s with ⟨_, h⟩ | ⟨_, h⟩ <;> rw [h]
  · exact .of_trace_eq rfl
  · exact ⟨[.wake, .write (commandFrame s.cfg op p1 p2 payload)], by simp [storeFrame], by simp [wakesFirst]⟩

theorem receive_appendsWakesFirst (e : Nat) (s : State) : AppendsWakesFirst s (receive e s).2 := by
  obtain ⟨cs, -, -, -, -, -, htrace, -⟩ := collect_spec e s
  refine ⟨readEvents e cs ++ [.idle], ?_, wakesFirst_of_no_write fun f => by simp [write_notMem_readEvents]⟩
  simp [receive, receiveEffect_trace, htrace]

/-- The one write of a block follows its wake (R132). -/
theorem cryptBlock_appendsWakesFirst (x : Bytes) (slot key : Byte) (dir : Direction) (s : State) :
    AppendsWakesFirst s (cryptBlock x slot key dir s).2 := by
  rcases cryptBlock_spec x slot key dir s with ⟨h, -⟩ | ⟨-, cs, -, -, -, -, htrace⟩
  · rw [h]
    exact .of_trace_eq rfl
  · refine ⟨[.wake, .write (cryptFrame s.cfg slot key dir x)] ++ (.execWait :: readEvents 19 cs ++ [.idle]),
      by simp [htrace], ?_⟩
    exact wakesFirst_append.2
      ⟨by simp [wakesFirst], wakesFirst_of_no_write fun f => by simp [write_notMem_readEvents]⟩

theorem encBlocks_appendsWakesFirst (bs : List Bytes) (s : State) : AppendsWakesFirst s (encBlocks bs s).2 := by
  induction bs generalizing s with
  | nil => exact .of_trace_eq rfl
  | cons b bs ih =>
    have hblock := cryptBlock_appendsWakesFirst (encInput b s) s.ctx.slot s.ctx.keyIdx .encrypt s
    unfold encBlocks
    generalize cryptBlock (encInput b s) s.ctx.slot s.ctx.keyIdx .encrypt s = q at hblock
    obtain ⟨e | c, t⟩ := q
    · exact hblock
    · have hrest := hblock.trans ((AppendsWakesFirst.of_trace_eq (encStore_trace c t)).trans (ih (encStore c t)))
      simp only
      generalize encBlocks bs (encStore c t) = q at hrest
      obtain ⟨e | cs, u⟩ := q <;> exact hrest

theorem decBlocks_appendsWakesFirst (n : Nat) (got : Bytes) (s : State) :
    match decBlocks n got s with
    | .done _ t | .failed _ t => AppendsWakesFirst s t
    | .unwritten => True := by
  induction n generalizing got s with
  | zero => exact AppendsWakesFirst.of_trace_eq rfl
  | succ n ih =>
    unfold decBlocks
    cases readInbuf (16 * s.blk) 16 s with
    | none => trivial
    | some c =>
      have hblock := cryptBlock_appendsWakesFirst c s.ctx.slot s.ctx.keyIdx .decrypt s
      simp only
      generalize cryptBlock c s.ctx.slot s.ctx.keyIdx .decrypt s = q at hblock
      obtain ⟨e | d, u⟩ := q
      · exact hblock
      · have hstored := hblock.trans (.of_trace_eq (decStore_trace c d u))
        have hrest := ih (got ++ decOutput d u) (decStore c d u)
        simp only
        generalize decBlocks n _ _ = r at hrest
        cases r with
        | unwritten => trivial
        | done p t => exact hstored.trans hrest
        | failed e t => exact hstored.trans hrest

/-- A command that does not use the bus appends nothing; RECEIVE writes nothing; the others write by `send` (R110) only. -/
theorem attemptChecked_appendsWakesFirst {i : Instr} {s : State} {p : Attempt} (h : attemptChecked i s = some p) :
    AppendsWakesFirst s p.2 := by
  cases i
  case crc16 =>
    obtain ⟨data, -, rfl⟩ := Option.map_eq_some_iff.1 h
    exact .of_trace_eq rfl
  case build =>
    obtain ⟨payload, -, rfl⟩ := Option.map_eq_some_iff.1 h
    exact .of_trace_eq (buildCommandFrame_trace _ _ _ payload s)
  case parse =>
    obtain ⟨raw, -, rfl⟩ := Option.map_eq_some_iff.1 h
    exact .of_trace_eq (parseEffect_trace raw (rxLoad raw s))
  case send =>
    obtain ⟨payload, -, rfl⟩ := Option.map_eq_some_iff.1 h
    exact send_appendsWakesFirst _ _ _ payload s
  case receive =>
    cases h
    exact receive_appendsWakesFirst _ s
  case cryptblock =>
    obtain ⟨x, -, rfl⟩ := Option.map_eq_some_iff.1 h
    exact cryptBlock_appendsWakesFirst x _ _ _ s
  case reqsize => cases h; exact .of_trace_eq rfl
  case ctxset => cases h; exact .of_trace_eq rfl
  case encrypt =>
    simp only [attemptChecked] at h
    cases hq : requiredOutputSize s.ops.inlen.toNat (paddingOfBit s.ctx.pad) with
    | error e =>
      simp only [hq, Option.some.injEq] at h
      exact h ▸ .of_trace_eq rfl
    | ok total =>
      simp only [hq] at h
      obtain ⟨data, -, rfl⟩ := Option.map_eq_some_iff.1 h
      exact (AppendsWakesFirst.of_trace_eq (loadWork_trace _ s)).trans (encBlocks_appendsWakesFirst _ _)
  case decrypt =>
    have hloop := decBlocks_appendsWakesFirst (s.ops.inlen.toNat / 16) [] (loadIv s)
    simp only [attemptChecked] at h
    cases hd : decBlocks (s.ops.inlen.toNat / 16) [] (loadIv s) with
    | unwritten => simp [hd, decryptAttempt] at h
    | failed e t =>
      simp only [hd, decryptAttempt, Option.some.injEq] at h hloop
      exact h ▸ hloop
    | done d t =>
      simp only [hd, decryptAttempt, Option.some.injEq] at h hloop
      exact h ▸ hloop

theorem attempt_appendsWakesFirst {i : Instr} {s : State} {p : Attempt} (h : attempt i s = some p) :
    AppendsWakesFirst s p.2 := by
  cases hv : validate i s with
  | some e =>
    rw [attempt_of_invalid hv] at h
    cases h
    exact .of_trace_eq rfl
  | none => exact attemptChecked_appendsWakesFirst (attempt_of_valid hv ▸ h)

/-- A completion uses no bus. -/
@[simp] theorem complete_trace (i : Instr) (p : Attempt) : (complete i p).trace = p.2.trace := by
  obtain ⟨e | r, t⟩ := p
  · simp only [complete, errorCompletion_trace]
    split <;> rfl
  · cases r <;> simp [complete, Release.apply]

/-- A completion leaves the sequencer idle (R166, R176). -/
@[simp] theorem complete_seq (i : Instr) (p : Attempt) : (complete i p).seq = .sIdle := by
  obtain ⟨e | r, t⟩ := p <;> simp [complete]

theorem State.WakesFirst.of_appends {s t : State} (hs : s.WakesFirst) (h : AppendsWakesFirst s t) (hseq : t.seq ≠ .sTx) :
    t.WakesFirst :=
  ⟨h.wakesFirst_trace hs.1, fun htx => absurd htx hseq⟩

theorem exec_wakesFirst {i : Instr} {s : State} (hs : s.WakesFirst) : EveryNext State.WakesFirst (exec i s) := by
  intro t h
  obtain ⟨p, hp, rfl⟩ := exec_next h
  have hstart : AppendsWakesFirst s (startCommand (encode i) s) := .of_trace_eq rfl
  exact hs.of_appends ((hstart.trans (attempt_appendsWakesFirst hp)).trans (.of_trace_eq (complete_trace i p))) (by simp)

theorem runCommand_wakesFirst (v : Byte) {s : State} (hs : s.WakesFirst) :
    EveryNext State.WakesFirst (runCommand v s) := by
  unfold runCommand
  cases decode v with
  | ok i => exact exec_wakesFirst hs
  | error e => exact .next (hs.of_appends (.of_trace_eq (by simp [reservedCommand])) (by simp [reservedCommand]))

/-! ## One transition of the sequencer -/

/-- No event, and the sequencer is not in `S_TX`: what every transition does but those of the five bus states. -/
def Silent (s t : State) : Prop := t.trace = s.trace ∧ t.seq ≠ .sTx

theorem Silent.goto {s t : State} {q : SeqState} (hq : q ≠ .sTx) (h : t.trace = s.trace) : Silent s (seqGoto q t) :=
  ⟨h, hq⟩

theorem Silent.fail {s t : State} (e : Err) (h : t.trace = s.trace) : Silent s (seqFail e t) :=
  ⟨h, fun hq => by cases hq⟩

theorem Silent.wakesFirst {s t : State} (h : Silent s t) (hs : s.WakesFirst) : t.WakesFirst :=
  hs.of_appends (.of_trace_eq h.1) h.2

theorem seqValidate_silent (s : State) : EveryNext (Silent s) (seqValidate s) := by
  unfold seqValidate
  cases decode s.cur with
  | error => exact .next (.fail _ rfl)
  | ok i =>
    simp only
    cases validate i s with
    | some e =>
      refine .next (.fail e ?_)
      split <;> rfl
    | none =>
      cases i
      case parse => exact .withBytes fun raw => .next (.goto (by decide) rfl)
      all_goals exact .next (.goto (by decide) rfl)

theorem seqFrame_silent (op p1 : Byte) (p2 : Word16) (payload : Bytes) {q : SeqState} (hq : q ≠ .sTx) (s : State) :
    EveryNext (Silent s) (seqFrame op p1 p2 payload q s) := by
  have htrace := buildCommandFrame_trace op p1 p2 payload s
  unfold seqFrame
  generalize buildCommandFrame op p1 p2 payload s = r at htrace
  obtain ⟨e | f, t⟩ := r
  · exact .next (.fail e htrace)
  · exact .next (.goto hq htrace)

theorem seqCompute_silent (s : State) : EveryNext (Silent s) (seqCompute s) := by
  unfold seqCompute
  cases decode s.cur with
  | error => exact .fault
  | ok i =>
    cases i
    case crc16 => exact .withBytes fun _ => .next (.goto (by decide) rfl)
    case build | send => exact .withBytes fun payload => seqFrame_silent _ _ _ payload (by decide) s
    case reqsize | ctxset => exact .next (.goto (by decide) rfl)
    case encrypt =>
      simp only
      cases requiredOutputSize s.ops.inlen.toNat (paddingOfBit s.ctx.pad) with
      | error e => exact .next (.fail e rfl)
      | ok total =>
        refine .withBytes fun data => .next (.goto ?_ rfl)
        split <;> decide
    case decrypt =>
      refine .next (.goto ?_ rfl)
      split <;> decide
    all_goals exact .fault

theorem seqBlkPre_silent (s : State) : EveryNext (Silent s) (seqBlkPre s) := by
  unfold seqBlkPre
  cases decode s.cur with
  | error => exact .fault
  | ok i =>
    cases i
    case cryptblock | encrypt | decrypt => exact .withBytes fun x => seqFrame_silent _ _ _ _ (by decide) s
    all_goals exact .fault

theorem seqParse_silent (s : State) : EveryNext (Silent s) (seqParse s) := by
  unfold seqParse
  refine .withBytes fun raw => ?_
  have hparsed := parseEffect_trace raw s
  have hreceived := receiveEffect_trace (seqExpected s) raw s
  cases decode s.cur with
  | error => exact .fault
  | ok i =>
    cases i
    case parse =>
      simp only
      cases parseResponse s.cfg raw with
      | ok => exact .next (.goto (by decide) hparsed)
      | error e => exact .next (.fail e hparsed)
    case receive =>
      simp only
      cases receiveOutcome s.cfg (seqExpected s) raw with
      | ok => exact .next (.goto (by decide) hreceived)
      | error e => exact .next (.fail e hreceived)
    case cryptblock | encrypt | decrypt =>
      simp only
      cases receiveOutcome s.cfg (seqExpected s) raw with
      | ok => exact .next (.goto (by decide) hreceived)
      | error e => exact .next ⟨hreceived, fun hq => by cases hq⟩
    all_goals exact .fault

theorem seqClassify_silent (s : State) : EveryNext (Silent s) (seqClassify s) := by
  unfold seqClassify
  cases s.pend with
  | none => exact .fault
  | some e => exact .withBytes fun raw => .next (.fail _ (classifyEffect_trace raw s))

theorem seqNextBlock_silent (total : Nat) {q : SeqState} (hq : q ≠ .sTx) {s t : State} (h : t.trace = s.trace) :
    EveryNext (Silent s) (seqNextBlock total q t) := by
  unfold seqNextBlock
  split
  · exact .next (.goto (by decide) h)
  · split
    · exact .next (.goto hq h)
    · exact .fault

theorem seqBlkPost_silent (s : State) : EveryNext (Silent s) (seqBlkPost s) := by
  unfold seqBlkPost
  cases decode s.cur with
  | error => exact .fault
  | ok i =>
    cases i
    case cryptblock => exact .next (.goto (by decide) rfl)
    case encrypt => exact .withBytes fun c => seqNextBlock_silent _ (by decide) rfl
    case decrypt => exact .withBytes fun d => .withBytes fun c => seqNextBlock_silent _ (by decide) rfl
    all_goals exact .fault

theorem seqUnpad_silent (s : State) : EveryNext (Silent s) (seqUnpad s) := by
  unfold seqUnpad
  refine .withBytes fun d => ?_
  cases removePadding (paddingOfBit s.ctx.pad) d with
  | error e => exact .next (.fail e rfl)
  | ok out => exact .next (.goto (by decide) rfl)

theorem seqRelease_silent (s : State) : EveryNext (Silent s) (seqRelease s) := by
  unfold seqRelease
  cases decode s.cur with
  | error => exact .fault
  | ok i =>
    cases i
    case crc16 | send | ctxset => exact .next (.goto (by decide) rfl)
    case reqsize =>
      simp only
      cases requiredOutputSize s.ops.inlen.toNat (paddingOfBit s.ops.pPad) with
      | ok n => exact .next (.goto (by decide) rfl)
      | error e => exact .next (.fail e rfl)
    all_goals exact .withBytes fun out => .next (.goto (by decide) rfl)

theorem seqFailStep_silent (s : State) : EveryNext (Silent s) (seqFailStep s) := by
  unfold seqFailStep
  cases s.pend with
  | none => exact .fault
  | some e => exact .next (.goto (by decide) rfl)

/-- `S_TX` writes the frame and leaves (R162). -/
theorem seqTx_writes (s : State) :
    EveryNext (fun t => ∃ f, t.trace = s.trace ++ [.write f] ∧ t.seq ≠ .sTx) (seqTx s) := by
  unfold seqTx
  refine .withBytes fun f => ?_
  cases decode s.cur with
  | error => exact .fault
  | ok i =>
    cases i
    case send | cryptblock | encrypt | decrypt => exact .next ⟨f, rfl, by simp⟩
    all_goals exact .fault

/-- Appending one event other than a write keeps the invariant, outside `S_TX`. -/
theorem State.WakesFirst.of_event {s t : State} {ev : BusEvent} (hs : s.WakesFirst) (hev : ∀ f, ev ≠ .write f)
    (htrace : t.trace = s.trace ++ [ev]) (hseq : t.seq ≠ .sTx) : t.WakesFirst :=
  hs.of_appends ⟨[ev], htrace, wakesFirst_of_no_write fun f => by simpa using (hev f).symm⟩ hseq

theorem seqRxReq_wakesFirst {s : State} (hs : s.WakesFirst) (hrun : s.seq = .sRxReq) :
    EveryNext State.WakesFirst (seqRxReq s) := by
  unfold seqRxReq
  split
  · refine .next (hs.of_event (ev := .read _ _) (by simp) rfl ?_)
    rw [(rxRequest_frame _ s).seq, hrun]
    decide
  · exact .next (hs.of_appends (.of_trace_eq rfl) (by simp))

/-- A transition keeps the invariant: `S_WAKE` establishes its second part, `S_TX` uses it. -/
theorem seqStep_wakesFirst {s : State} (hs : s.WakesFirst) : EveryNext State.WakesFirst (seqStep s) := by
  have of_silent {o : Host.Outcome State Fault Refusal} (h : EveryNext (Silent s) o) : EveryNext State.WakesFirst o :=
    fun t ht => (h t ht).wakesFirst hs
  unfold seqStep
  cases hq : s.seq <;> simp only
  case sIdle => exact .next hs
  case sWake =>
    obtain ⟨htrace, -⟩ := hs
    refine .next ⟨?_, fun _ => by simp⟩
    exact wakesFirst_append.2 ⟨htrace, by simp [wakesFirst]⟩
  case sTx =>
    obtain ⟨htrace, hlast⟩ := hs
    intro t h
    obtain ⟨f, ht, hseq⟩ := seqTx_writes s t h
    refine ⟨?_, fun htx => absurd htx hseq⟩
    rw [ht]
    exact wakesFirst_append.2 ⟨htrace, by simp [wakesFirst, hlast hq]⟩
  case sExec => exact .next (hs.of_event (ev := .execWait) (by simp) rfl (by simp))
  case sRxReq => exact seqRxReq_wakesFirst hs hq
  case sGoIdle => exact .next (hs.of_event (ev := .idle) (by simp) rfl (by simp))
  case sValidate => exact of_silent (seqValidate_silent s)
  case sCompute => exact of_silent (seqCompute_silent s)
  case sBlkPre => exact of_silent (seqBlkPre_silent s)
  case sParse => exact of_silent (seqParse_silent s)
  case sClassify => exact of_silent (seqClassify_silent s)
  case sBlkPost => exact of_silent (seqBlkPost_silent s)
  case sUnpad => exact of_silent (seqUnpad_silent s)
  case sRelease => exact of_silent (seqRelease_silent s)
  case sFail => exact of_silent (seqFailStep_silent s)
  case sFinish => exact .next (hs.of_appends (.of_trace_eq (by simp)) (by simp))

/-! ## The host's actions -/

section
variable {s : State}

/-- A register write leaves the sequencer alone or starts a command, in `S_VALIDATE` (R160). -/
theorem writeRegNumber_wakesFirst (n : Byte) (v : Word128) (hs : s.WakesFirst) : (writeRegNumber n v s).WakesFirst := by
  unfold writeRegNumber
  split
  · exact hs
  · split
    · exact hs
    · exact hs.of_appends (.of_trace_eq rfl) (by simp)
    · exact hs

theorem writeInbuf_wakesFirst (off : Nat) (bytes : Bytes) (hs : s.WakesFirst) :
    EveryNext State.WakesFirst (writeInbuf off bytes s) := by
  unfold writeInbuf
  split
  · exact .fault
  · split <;> exact .next hs

theorem hostReadInbuf_wakesFirst (off n : Nat) (hs : s.WakesFirst) :
    EveryNext State.WakesFirst (hostReadInbuf off n s) := by
  unfold hostReadInbuf
  split
  · exact .fault
  · cases readInbuf off n s with
    | none => exact .refused
    | some bs => exact .next hs

theorem hostReadOutbuf_wakesFirst (off n : Nat) (hs : s.WakesFirst) :
    EveryNext State.WakesFirst (hostReadOutbuf off n s) := by
  unfold hostReadOutbuf
  split
  · exact .fault
  · split
    · exact .refused
    · cases s.outbuf.readBytes off n with
      | none => exact .refused
      | some bs => exact .next hs

/-- Every action of the host keeps the invariant; taking it from the queue touches neither the trace nor the sequencer. -/
theorem hostAct_wakesFirst (a : HostAction) (rest : List HostAction) (hs : s.WakesFirst) :
    EveryNext State.WakesFirst (hostAct a rest s) := by
  have hrest : (setHostq rest s).WakesFirst := hs
  cases a with
  | cmd v =>
    simp only [hostAct]
    split
    · exact .next hs
    · exact runCommand_wakesFirst v hrest
  | wr n v => exact .next (writeRegNumber_wakesFirst n v hrest)
  | rd n => exact .next hs
  | wrIn off bytes => exact writeInbuf_wakesFirst off bytes hrest
  | rdIn off n => exact hostReadInbuf_wakesFirst off n hrest
  | rdOut off n => exact hostReadOutbuf_wakesFirst off n hrest
  | wait =>
    simp only [hostAct]
    split
    · exact seqStep_wakesFirst hs
    · exact .next hs
  | tick => exact seqStep_wakesFirst hrest
  | rst => exact .next (hs.of_appends (.of_trace_eq rfl) (by simp [resetBlock, State.resetWith]))

end

/-- Settles O58: a step is a transition of the sequencer or an action of the host. -/
theorem stepKeepsWakeBeforeEveryWrite : Obligations.StepKeepsWakeBeforeEveryWrite := by
  intro s t hs h
  cases hq : s.hostq with
  | nil => exact seqStep_wakesFirst hs t (step_of_idle_host hq ▸ h)
  | cons a rest => exact hostAct_wakesFirst a rest hs t (step_of_hostAct hq ▸ h)

end Sys2Proof.Machine

/-! # Transport: O18 to O21

What a receive does is said twice: for any answers, by `collect_spec`; for scripted ones, by `collect_answered`, which gives
the very state it leaves. RECEIVE's outcome then depends on the bytes collected alone. -/

namespace Sys2Proof.Machine

/-! ## SEND (R111) -/

theorem validateSend_eq_none {s : State} :
    validateSend s = none ↔ s.ops.inlen.toNat ≤ s.cfg.bufCap ∧ s.ops.inlen.toNat ≤ s.cfg.maxPayload := by
  simp [validateSend, firstError_eq_none_iff]

theorem validateSend_eq_invalidParameter {s : State}
    (h : s.cfg.bufCap < s.ops.inlen.toNat ∨ s.cfg.maxPayload < s.ops.inlen.toNat) :
    validateSend s = some .invalidParameter := by
  rcases h with h | h <;> simp [validateSend, firstError, h]

theorem usesWork_send : usesWork (encode .send) = false := rfl

/-- A payload that fits is sent as its frame, right after a wake (R110). -/
theorem exec_send_of_read {s : State} {payload : Bytes} (hvalid : validateSend s = none)
    (hread : readInbuf 0 s.ops.inlen.toNat s = some payload) :
    exec .send s = .next (finishCommand (setOutlen 0
      (busWrite (commandFrame s.cfg s.ops.pOpcode s.ops.pParam1 s.ops.pParam2 payload)
        (busWake (storeFrame s.ops.pOpcode s.ops.pParam1 s.ops.pParam2 payload (startCommand (encode .send) s)))))) := by
  have hv : validate .send s = none := hvalid
  have hstart : readInbuf 0 (startCommand (encode .send) s).ops.inlen.toNat (startCommand (encode .send) s) =
      some payload := hread
  have hlen : payload.length ≤ s.cfg.maxPayload := readBytes_length hread ▸ (validateSend_eq_none.1 hvalid).2
  rcases send_spec s.ops.pOpcode s.ops.pParam1 s.ops.pParam2 payload (startCommand (encode .send) s) with
    ⟨hlong, -⟩ | ⟨-, hsend⟩
  · exact absurd hlong (Nat.not_lt.2 hlen)
  · rw [exec_of_valid ((validate_startCommand _ _ s).trans hv), attemptChecked, hstart, Option.map_some]
    simp only [startCommand_ops, hsend]
    rfl

/-- Settles O18: the failed checks, then the success field by field. -/
theorem sendCommandMeaning : Obligations.SendCommandMeaning := by
  intro s
  refine ⟨fun h => exec_of_failed_check (by decide) usesWork_send (validateSend_eq_invalidParameter h),
    fun payload hin hmax hread => ⟨_, exec_send_of_read (validateSend_eq_none.2 ⟨hin, hmax⟩) hread, ?_⟩⟩
  have hlen : payload.length = s.ops.inlen.toNat := readBytes_length hread
  simp [Succeeded, Completed, storeFrame, Wrote, read_writeBytes, hlen, KeepsHostOwned, KeepsContext, KeepsRx, KeepsWork,
    usesWork_send]

/-! ## A receive, for any answers -/

theorem receiveOutcome_of_missing {cfg : Config} {e : Nat} {raw : Bytes} (h : raw.length < e ∨ raw.length = 0) :
    receiveOutcome cfg e raw = .error .timeout :=
  if_pos h

theorem receiveOutcome_of_complete {cfg : Config} {e : Nat} {raw : Bytes} (h : raw.length = e) (he : 0 < e) :
    receiveOutcome cfg e raw = parseResponse cfg raw :=
  if_neg (by omega)

/-- Settles O19: what `collect` does, and what the bytes it collects come to. -/
theorem receiveTraceAndOutcome : Obligations.ReceiveTraceAndOutcome := by
  intro e s
  obtain ⟨cs, hlen, hpartial, hraw, hcnt, hbuf, htrace, hatt, hstop⟩ := collect_spec e s
  obtain ⟨r, heffect⟩ := receiveEffect_frame e (collect e s).1 (collect e s).2
  have hreceive : receive e s = (receiveOutcome s.cfg e cs.flatten, setCrcreg r (collect e s).2) := by
    rw [receive, heffect, hraw]
  rw [hreceive]
  exact ⟨cs, hlen, hpartial, htrace, hatt, hcnt, hbuf, hstop, receiveOutcome_of_missing, receiveOutcome_of_complete⟩

/-! ## A receive whose answers are scripted -/

theorem cellsFrom_append (off : Nat) (a b : Bytes) :
    cellsFrom off (a ++ b) = cellsFrom off a ++ cellsFrom (off + a.length) b := by
  induction a generalizing off with
  | nil => rfl
  | cons x a ih => simp [cellsFrom, ih, Nat.add_assoc, Nat.add_comm 1]

theorem filter_filter_eq_outer {α : Type} {p q : α → Bool} (h : ∀ c, p c = true → q c = true) (l : List α) :
    (l.filter q).filter p = l.filter p := by
  rw [List.filter_filter]
  exact List.filter_congr fun c _ => Bool.and_eq_left_iff_imp.2 (h c)

theorem filter_filter_eq_inner {α : Type} {p q : α → Bool} (h : ∀ c, q c = true → p c = true) (l : List α) :
    (l.filter q).filter p = l.filter q :=
  List.filter_eq_self.2 fun c hc => h c (List.mem_filter.1 hc).2

theorem filter_filter_eq_nil {α : Type} {p q : α → Bool} (h : ∀ c, q c = true → p c = false) (l : List α) :
    (l.filter q).filter p = [] :=
  List.filter_eq_nil_iff.2 fun c hc => by simp [h c (List.mem_filter.1 hc).2]

/-- Two writes, the second directly after the first, are one write of both strings. -/
theorem writeBytes_append (m : Memory) (off : Nat) (a b : Bytes) :
    (m.writeBytes off a).writeBytes (off + a.length) b = m.writeBytes off (a ++ b) := by
  have hbelow : (m.writeBytes off a).filter (fun c => decide (c.1 < off + a.length)) =
      m.filter (fun c => decide (c.1 < off)) ++ cellsFrom off a := by
    have hcells : (cellsFrom off a).filter (fun c => decide (c.1 < off + a.length)) = cellsFrom off a :=
      List.filter_eq_self.2 fun c hc => by simpa using (mem_cellsFrom hc).2
    rw [Memory.writeBytes, List.filter_append, List.filter_append, hcells, filter_filter_eq_inner,
      filter_filter_eq_nil, List.append_nil]
    · simp
    · simp; omega
  have habove : (m.writeBytes off a).filter (fun c => decide (off + a.length + b.length ≤ c.1)) =
      m.filter (fun c => decide (off + (a ++ b).length ≤ c.1)) := by
    have hcells : (cellsFrom off a).filter (fun c => decide (off + a.length + b.length ≤ c.1)) = [] :=
      List.filter_eq_nil_iff.2 fun c hc => by have := (mem_cellsFrom hc).2; simp; omega
    rw [Memory.writeBytes, List.filter_append, List.filter_append, hcells, filter_filter_eq_nil,
      filter_filter_eq_outer, List.length_append, ← Nat.add_assoc]
    · rfl
    · simp; omega
    · simp; omega
  rw [Memory.writeBytes, hbelow, habove, Memory.writeBytes, cellsFrom_append, ← List.append_assoc]

/-- The state of a receive of `e` bytes that began in `s`, after its requests were answered by `cs`, the answers `rest`
being still to come. -/
def answered (e : Nat) (cs rest : List Bytes) (s : State) : State :=
  { rxLoad cs.flatten s with
    attempts := cs.length, answers := rest, trace := s.trace ++ readEvents e cs }

theorem readEvents_concat (e : Nat) (cs : List Bytes) (c : Bytes) :
    readEvents e (cs ++ [c]) = readEvents e cs ++ [.read (min 32 (e - cs.flatten.length)) c] := by
  induction cs generalizing e with
  | nil => simp [readEvents]
  | cons b cs ih => simp [readEvents, ih, Nat.sub_sub]

/-- A receive begins with no request answered. -/
theorem rxStart_eq_answered (e : Nat) (s : State) : rxStart s = answered e [] s.answers s := by
  simp [rxStart, answered, rxLoad, readEvents, Memory.writeBytes, cellsFrom]

/-- One request takes the next scripted answer, when the device could give it. -/
theorem rxRequest_answered {e : Nat} {cs rest : List Bytes} {c : Bytes} (s : State)
    (hc : c.length ≤ min 32 (e - cs.flatten.length)) :
    busAnswer (chunkSize e (answered e cs (c :: rest) s).rxcnt) (answered e cs (c :: rest) s) = c ∧
      rxRequest e (answered e cs (c :: rest) s) = answered e (cs ++ [c]) rest s := by
  have hanswer : busAnswer (chunkSize e (answered e cs (c :: rest) s).rxcnt) (answered e cs (c :: rest) s) = c :=
    busAnswer_of_scripted rfl hc
  refine ⟨hanswer, ?_⟩
  simp only [rxRequest, hanswer, busReadEffect]
  simp [answered, rxStore, rxLoad, chunkSize, Param.chunkMax, readEvents_concat, ← writeBytes_append]

/-- The loop of R113 goes on exactly until the answers are complete or the budget is spent. -/
theorem rxLoop_answered {e fuel : Nat} {cs more rest : List Bytes} (s : State)
    (hpartial : chunksPartial (e - cs.flatten.length) more) (hfuel : more.length ≤ fuel)
    (hstop : cs.flatten.length + more.flatten.length < e → more.length = fuel) :
    rxLoop e fuel cs.flatten (answered e cs (more ++ rest) s) =
      ((cs ++ more).flatten, answered e (cs ++ more) rest s) := by
  induction more generalizing fuel cs with
  | nil =>
    have hdone : fuel = 0 ∨ ¬ (answered e cs rest s).rxcnt < e := by
      by_cases h : cs.flatten.length < e
      · exact .inl (hstop (by simpa using h)).symm
      · exact .inr h
    rcases hdone with rfl | hdone
    · simp [rxLoop]
    · cases fuel <;> simp [rxLoop, hdone]
  | cons c more ih =>
    obtain ⟨hpos, hc, hmore⟩ := hpartial
    obtain _ | fuel := fuel
    · simp at hfuel
    obtain ⟨hanswer, hnext⟩ := rxRequest_answered (rest := more ++ rest) s hc
    have hrun : (answered e cs (c :: (more ++ rest)) s).rxcnt < e := Nat.lt_of_sub_pos hpos
    have hgot : (cs ++ [c]).flatten = cs.flatten ++ c := by simp
    rw [List.cons_append, rxLoop, if_pos hrun, hanswer, hnext, ← hgot, ih]
    · simp
    · rwa [hgot, List.length_append, ← Nat.sub_sub]
    · simpa using hfuel
    · intro h
      simpa using hstop (by simpa [Nat.add_assoc] using h)

/-- A receive collects the scripted chunks it can get, and leaves the answers after them (R113, R121). -/
theorem collect_answered {e : Nat} {cs rest : List Bytes} {s : State} (hpartial : chunksPartial e cs)
    (hlen : cs.length ≤ 20) (hstop : cs.flatten.length < e → cs.length = 20) (hans : s.answers = cs ++ rest) :
    collect e s = (cs.flatten, busIdle (answered e cs rest s)) := by
  have hloop := rxLoop_answered (fuel := 20) (cs := []) (rest := rest) s hpartial hlen (by simpa using hstop)
  rw [← hans, ← rxStart_eq_answered] at hloop
  rw [collect]
  exact congrArg (fun r : Bytes × State => (r.1, busIdle r.2)) hloop

/-- What `CRCREG` holds after the bytes `raw` of a receive of `e` bytes: the CRC, if the parser came to compute it. -/
def receivedCrc (cfg : Config) (e : Nat) (raw : Bytes) (before : Word16) : Word16 :=
  if raw.length < e ∨ raw.length = 0 then before
  else if countOk cfg raw then crcReg (raw.take (raw.length - 2)) else before

section
variable {cfg : Config} {e : Nat} {raw : Bytes} {before : Word16}

theorem receivedCrc_of_missing (h : raw.length < e ∨ raw.length = 0) : receivedCrc cfg e raw before = before :=
  if_pos h

theorem receivedCrc_of_complete (h : raw.length = e) (he : 0 < e) : receivedCrc cfg e raw before =
    if countOk cfg raw then crcReg (raw.take (raw.length - 2)) else before :=
  if_neg (by omega)

theorem receivedCrc_of_ok {p : Bytes} (h : raw.length = e) (he : 0 < e) (hp : parseResponse cfg raw = .ok p) :
    receivedCrc cfg e raw before = crcReg (raw.take (raw.length - 2)) := by
  rw [receivedCrc_of_complete h he, if_pos (parseResponse_ok hp).1]

theorem receivedCrc_of_error {err : Err} (h : raw.length = e) (he : 0 < e) (hp : parseResponse cfg raw = .error err) :
    receivedCrc cfg e raw before = if err = .crcMismatch then crcReg (raw.take (raw.length - 2)) else before := by
  simp only [receivedCrc_of_complete h he, parseResponse_error_eq_crcMismatch_iff hp]

end

theorem receiveEffect_eq_setCrcreg (e : Nat) (raw : Bytes) (s : State) :
    receiveEffect e raw s = setCrcreg (receivedCrc s.cfg e raw s.crcreg) s := by
  unfold receiveEffect receivedCrc
  split
  · rfl
  · exact parseEffect_eq_setCrcreg raw s

/-- The state a receive leaves when its requests were answered by `cs`. -/
def received (e : Nat) (cs rest : List Bytes) (s : State) : State :=
  setCrcreg (receivedCrc s.cfg e cs.flatten s.crcreg) (busIdle (answered e cs rest s))

theorem received_trace (e : Nat) (cs rest : List Bytes) (s : State) :
    (received e cs rest s).trace = s.trace ++ readEvents e cs ++ [.idle] := rfl

theorem receive_answered {e : Nat} {cs rest : List Bytes} {s : State} (hpartial : chunksPartial e cs)
    (hlen : cs.length ≤ 20) (hstop : cs.flatten.length < e → cs.length = 20) (hans : s.answers = cs ++ rest) :
    receive e s = (receiveOutcome s.cfg e cs.flatten, received e cs rest s) := by
  rw [receive, collect_answered hpartial hlen hstop hans, receiveEffect_eq_setCrcreg]
  rfl

/-! ## A silent bus (R116) -/

theorem chunksPartial_replicate_nil {e : Nat} (he : 0 < e) (n : Nat) : chunksPartial e (List.replicate n []) := by
  induction n with
  | zero => trivial
  | succ n ih => exact ⟨he, by simp, ih⟩

theorem readEvents_replicate_nil (e n : Nat) :
    readEvents e (List.replicate n []) = List.replicate n (.read (min 32 e) []) := by
  induction n with
  | zero => rfl
  | succ n ih => simpa [List.replicate_succ, readEvents] using ih

/-- Settles O20: twenty empty answers are chunks a receive can get, and bring nothing. -/
theorem silentBusTimesOutAfterTwentyRequests : Obligations.SilentBusTimesOutAfterTwentyRequests := by
  intro e s rest he hans
  rw [receive_answered (chunksPartial_replicate_nil he 20) (by simp) (by simp) hans]
  refine ⟨receiveOutcome_of_missing (by simp), ?_, ?_, ?_, rfl⟩
  · rw [received_trace, readEvents_replicate_nil]
  · simp [received, answered]
  · simp [received, answered, rxLoad]

/-! ## RECEIVE (R114) -/

theorem validateReceive_of_fits {s : State} (hcap : s.ops.pExplen.toNat ≤ s.cfg.rxCap)
    (hout : s.ops.outcap.toNat ≤ s.cfg.bufCap) (hfits : s.ops.pExplen.toNat ≤ s.ops.outcap.toNat + 3) :
    validateReceive s = none :=
  validateReceive_eq_none.2 ⟨⟨hcap, hout⟩, fun _ => by omega⟩

theorem usesWork_receive : usesWork (encode .receive) = false := rfl

theorem chunksPartial_of_chunksFit {e : Nat} {cs : List Bytes} (h : chunksFit e cs) : chunksPartial e cs := by
  induction cs generalizing e with
  | nil => trivial
  | cons c cs ih =>
    obtain ⟨hpos, hc, hcs⟩ := h
    exact ⟨hpos, hc, ih hcs⟩

theorem length_of_chunksFit {e : Nat} {cs : List Bytes} (h : chunksFit e cs) : cs.flatten.length = e := by
  induction cs generalizing e with
  | nil => exact h.symm
  | cons c cs ih =>
    obtain ⟨-, hc, hcs⟩ := h
    rw [List.flatten_cons, List.length_append, ih hcs]
    omega

section
variable (e : Nat) (cs rest : List Bytes) (s : State)

/-- RECEIVE from `s`, completed with the outcome `o`. -/
def receiveCompletion (o : Except Err Bytes) : State :=
  complete .receive (releasing (o, received e cs rest (startCommand (encode .receive) s)))

/-- Whatever the outcome, RECEIVE leaves the requests and one idle in the trace and the bytes in `RXBUF`; but for the
results, nothing else changes. -/
theorem receiveCompletion_frame (o : Except Err Bytes) :
    let t := receiveCompletion e cs rest s o
    t.trace = s.trace ++ readEvents e cs ++ [.idle] ∧ t.answers = rest ∧ Wrote s.rxbuf t.rxbuf 0 cs.flatten ∧
      t.rxcnt = cs.flatten.length ∧ t.attempts = cs.length ∧
      KeepsHostOwned s t ∧ KeepsContext s t ∧ KeepsTx s t ∧ KeepsWork s t ∧ t.blk = 0 := by
  cases o <;>
    simp [receiveCompletion, releasing, complete, Except.map, Release.apply, received, answered, Wrote, read_writeBytes,
      KeepsHostOwned, KeepsContext, KeepsTx, KeepsWork, usesWork_receive]

theorem receiveCompletion_crcreg (o : Except Err Bytes) :
    (receiveCompletion e cs rest s o).crcreg = receivedCrc s.cfg e cs.flatten s.crcreg := by
  cases o <;> simp [receiveCompletion, releasing, complete, Except.map, Release.apply, received, answered]

theorem receiveCompletion_error (err : Err) :
    FailedWith .receive err s (receiveCompletion e cs rest s (.error err)) := by
  simp [receiveCompletion, releasing, complete, Except.map, received, answered, FailedWith, Completed]

theorem receiveCompletion_ok {p : Bytes} (hp : p.length < 65536) :
    let t := receiveCompletion e cs rest s (.ok p)
    Succeeded .receive t ∧ t.crcout = 0 ∧ t.outlen.toNat = p.length ∧ Wrote s.outbuf t.outbuf 0 p := by
  simp [receiveCompletion, releasing, complete, Except.map, Release.apply, received, answered, Succeeded, Completed, Wrote,
    read_writeBytes, Nat.mod_eq_of_lt hp]

end

/-- RECEIVE, when its requests are answered by `cs`, completes with what the bytes come to (R114). -/
theorem exec_receive_answered {s : State} {cs rest : List Bytes} (hvalid : validateReceive s = none)
    (hpartial : chunksPartial s.ops.pExplen.toNat cs) (hlen : cs.length ≤ 20)
    (hstop : cs.flatten.length < s.ops.pExplen.toNat → cs.length = 20) (hans : s.answers = cs ++ rest) :
    exec .receive s = .next (receiveCompletion s.ops.pExplen.toNat cs rest s
      (receiveOutcome s.cfg s.ops.pExplen.toNat cs.flatten)) := by
  have hv : validate .receive s = none := hvalid
  have hreceive := receive_answered (s := startCommand (encode .receive) s) hpartial hlen hstop hans
  rw [exec_of_valid ((validate_startCommand _ _ s).trans hv), attemptChecked, startCommand_ops, hreceive]
  rfl

/-- Settles O21: the completion for each outcome; a response frame is complete and parses back to its payload. -/
theorem receiveReleasesPayloadForAnyChunking : Obligations.ReceiveReleasesPayloadForAnyChunking := by
  refine ⟨fun s p cs rest hcap hout hfits hp hlen hfit hframe hans => ?_,
    fun s cs rest hcap hout hfits hlen hpartial hstop hans => ?_⟩
  · have htotal : cs.flatten.length = s.ops.pExplen.toNat := length_of_chunksFit hfit
    have hexplen : s.ops.pExplen.toNat = p.length + 3 := by rw [← htotal, hframe, respFrame_length]
    have hparse : parseResponse s.cfg cs.flatten = .ok p := hframe ▸ parseResponse_respFrame (by omega)
    have hexec := exec_receive_answered (validateReceive_of_fits hcap hout hfits) (chunksPartial_of_chunksFit hfit) hlen
      (by omega) hans
    rw [receiveOutcome_of_complete htotal (by omega), hparse] at hexec
    obtain ⟨hok, hcrcout, houtlen, houtbuf⟩ :=
      receiveCompletion_ok s.ops.pExplen.toNat cs rest s (p := p) (by omega)
    obtain ⟨htrace, hleft, hrxbuf, hrxcnt, hatt, hkept⟩ :=
      receiveCompletion_frame s.ops.pExplen.toNat cs rest s (.ok p)
    refine ⟨_, hexec, hok, hcrcout, houtlen, hexplen, houtbuf, htrace, hleft, hframe ▸ hrxbuf, hrxcnt.trans htotal, hatt,
      ?_, hkept⟩
    rw [receiveCompletion_crcreg, receivedCrc_of_ok htotal (by omega) hparse, hframe, respFrame_length]
    rfl
  · have hlt := s.ops.pExplen.isLt
    refine ⟨_, exec_receive_answered (validateReceive_of_fits hcap hout hfits) hpartial hlen hstop hans,
      fun hmissing => ?_, fun htotal hne => ?_,
      receiveCompletion_frame _ cs rest s _⟩
    · have hempty : cs.flatten.length < s.ops.pExplen.toNat ∨ cs.flatten.length = 0 := by
        have hle := chunksPartial_length_le hpartial
        exact hmissing.imp_right fun h => by simpa [h] using hle
      rw [receiveOutcome_of_missing hempty, receiveCompletion_crcreg, receivedCrc_of_missing hempty]
      exact ⟨receiveCompletion_error _ cs rest s _, rfl⟩
    · have hpos : 0 < s.ops.pExplen.toNat := Nat.pos_of_ne_zero fun h => hne (BitVec.eq_of_toNat_eq h)
      rw [receiveOutcome_of_complete htotal hpos, receiveCompletion_crcreg]
      refine ⟨fun e he => ?_, fun p hp => ?_⟩
      · rw [he, receivedCrc_of_error htotal hpos he]
        exact ⟨receiveCompletion_error _ cs rest s e, rfl⟩
      · have hshort := parseResponse_length hp
        obtain ⟨hok, hcrcout, houtlen, houtbuf⟩ :=
          receiveCompletion_ok s.ops.pExplen.toNat cs rest s (p := p) (by omega)
        rw [hp, receivedCrc_of_ok htotal hpos hp]
        exact ⟨hok, hcrcout, houtlen, houtbuf, rfl⟩

end Sys2Proof.Machine

/-! # The single block: O22, O23

`cryptBlock_received` gives the very state one block leaves when its requests are answered by script, and what it answers:
the payload, or the error of the receive as R133 classifies it. CRYPTBLOCK adds its checks before and its completion after;
but for the results, what it leaves does not depend on the outcome. -/

namespace Sys2Proof.Machine

/-! ## A block whose answers are scripted -/

/-- The state in which a block begins to receive: its frame is sent and the wait is over (R132). -/
def blockSent (x : Bytes) (slot key : Byte) (dir : Direction) (s : State) : State :=
  busExecWait (busWrite (cryptFrame s.cfg slot key dir x)
    (busWake (storeFrame s.cfg.aesOpcode (modeByte key dir) (slot.setWidth 16) x s)))

/-- How a block answers when its receive brought the bytes `raw` and came to an outcome, the state then being `t`: the
payload goes through, an error is classified (R133). -/
def blockAnswer (raw : Bytes) (t : State) : Except Err Bytes → Except Err Bytes × State
  | .ok p => (.ok p, t)
  | .error e => (.error (classify t.cfg raw e), classifyEffect raw t)

theorem blockSent_trace (x : Bytes) (slot key : Byte) (dir : Direction) (s : State) :
    (blockSent x slot key dir s).trace = s.trace ++ [BusEvent.wake, .write (cryptFrame s.cfg slot key dir x), .execWait] := by
  simp [blockSent, storeFrame]

/-- The parse after the last chunk leaves what `received` says. -/
theorem receiveEffect_answered (e : Nat) (cs rest : List Bytes) (s : State) :
    receiveEffect e cs.flatten (busIdle (answered e cs rest s)) = received e cs rest s :=
  receiveEffect_eq_setCrcreg e cs.flatten _

theorem received_cfg (e : Nat) (cs rest : List Bytes) (s : State) : (received e cs rest s).cfg = s.cfg := by
  simp [received, answered]

theorem blockSent_cfg (x : Bytes) (slot key : Byte) (dir : Direction) (s : State) :
    (blockSent x slot key dir s).cfg = s.cfg := by
  simp [blockSent, storeFrame]

theorem blockSent_answers (x : Bytes) (slot key : Byte) (dir : Direction) (s : State) :
    (blockSent x slot key dir s).answers = s.answers := by
  simp [blockSent, storeFrame]

/-- A block whose requests are answered by `cs` sends its frame, takes these answers, and answers what they come to (R130
to R133). -/
theorem cryptBlock_received {x : Bytes} {slot key : Byte} {dir : Direction} {s : State} {cs rest : List Bytes}
    (hkey : firstError (keyChecks slot key) = none) (hx : x.length ≤ s.cfg.maxPayload) (hpartial : chunksPartial 19 cs)
    (hlen : cs.length ≤ 20) (hstop : cs.flatten.length < 19 → cs.length = 20) (hans : s.answers = cs ++ rest) :
    cryptBlock x slot key dir s =
      blockAnswer cs.flatten (received 19 cs rest (blockSent x slot key dir s)) (receiveOutcome s.cfg 19 cs.flatten) := by
  rcases send_spec s.cfg.aesOpcode (modeByte key dir) (slot.setWidth 16) x s with ⟨hlong, -⟩ | ⟨-, hsend⟩
  · exact absurd hlong (Nat.not_lt.2 hx)
  have hcollect : collect 19 (blockSent x slot key dir s) =
      (cs.flatten, busIdle (answered 19 cs rest (blockSent x slot key dir s))) :=
    collect_answered hpartial hlen hstop ((blockSent_answers x slot key dir s).trans hans)
  unfold cryptBlock
  simp only [hkey, hsend, Param.cryptRespLen]
  rw [← cryptFrame, ← blockSent, hcollect]
  simp only [receiveEffect_answered]
  cases receiveOutcome s.cfg 19 cs.flatten with
  | error e => rw [blockAnswer, received_cfg, blockSent_cfg]
  | ok p => rfl

/-! ## A block that fails (R133) -/

theorem reportsStatus_iff {cfg : Config} {raw : Bytes} :
    ReportsStatus cfg raw ↔ isStatusFrame cfg raw = true ∧ raw.getD 1 0 ≠ 0 := by
  simp [ReportsStatus, isStatusFrame, statusCountOk, and_assoc]

theorem classify_of_reportsStatus {cfg : Config} {raw : Bytes} (e : Err) (h : ReportsStatus cfg raw) :
    classify cfg raw e = .deviceError (raw.getD 1 0) :=
  if_pos (reportsStatus_iff.1 h)

theorem classify_of_not_reportsStatus {cfg : Config} {raw : Bytes} (e : Err) (h : ¬ReportsStatus cfg raw) :
    classify cfg raw e = e :=
  if_neg (mt reportsStatus_iff.2 h)

/-- The receive of a block that fails comes to an error, and the classification makes it the error of the block. -/
theorem receiveOutcome_of_failsBlock {cfg : Config} {ch : List Bytes} {e : Err} (h : FailsBlock cfg ch e) :
    ∃ e0, receiveOutcome cfg 19 ch.flatten = .error e0 ∧ classify cfg ch.flatten e0 = e := by
  obtain ⟨-, -, -, e0, hreceive, hclass⟩ := h
  refine ⟨e0, ?_, ?_⟩
  · rcases hreceive with ⟨hmissing, rfl⟩ | ⟨htotal, hparse⟩
    · exact receiveOutcome_of_missing (.inl hmissing)
    · rw [receiveOutcome_of_complete htotal (by omega), hparse]
  · rcases hclass with ⟨hstatus, rfl⟩ | ⟨hstatus, rfl⟩
    · exact classify_of_reportsStatus e0 hstatus
    · exact classify_of_not_reportsStatus e hstatus

/-- The response frame of one byte is a status frame (R66). -/
theorem reportsStatus_respFrame {cfg : Config} {status : Byte} :
    ReportsStatus cfg (respFrame cfg [status]) ↔ status ≠ 0 := by
  have hself := cfg.countSelf.toNat_le
  have hcount : (3 + cfg.countSelf.toNat) % 256 = 3 + cfg.countSelf.toNat := Nat.mod_eq_of_lt (by omega)
  simp [ReportsStatus, respFrame, crc16, bytesOfWord, hcount]

/-- A status frame, then silence: 15 bytes stay missing after 20 requests, so only the status decides (R133). -/
theorem failsBlock_of_status_then_silence (cfg : Config) (status : Byte) :
    FailsBlock cfg (respFrame cfg [status] :: List.replicate 19 [])
      (if status = 0 then .timeout else .deviceError status) := by
  have hraw : (respFrame cfg [status] :: List.replicate 19 ([] : Bytes)).flatten = respFrame cfg [status] := by simp
  have hpartial : chunksPartial 19 (respFrame cfg [status] :: List.replicate 19 []) :=
    ⟨by omega, by simp, by simpa using chunksPartial_replicate_nil (e := 15) (by omega) 19⟩
  refine ⟨by simp, hpartial, by simp, .timeout, .inl ⟨by simp, rfl⟩, ?_⟩
  rw [hraw, reportsStatus_respFrame]
  by_cases hstatus : status = 0
  · exact .inr ⟨not_not.2 hstatus, if_pos hstatus⟩
  · exact .inl ⟨hstatus, if_neg hstatus⟩

theorem blockEvents_of_status_then_silence (cfg : Config) (slot key : Byte) (dir : Direction) (x : Bytes)
    (status : Byte) : blockEvents cfg slot key dir x (respFrame cfg [status] :: List.replicate 19 []) =
      [BusEvent.wake, .write (cryptFrame cfg slot key dir x), .execWait, .read 19 (respFrame cfg [status])] ++
        List.replicate 19 (BusEvent.read 15 []) ++ [BusEvent.idle] := by
  have hsilent : readEvents (19 - (respFrame cfg [status]).length) (List.replicate 19 []) =
      List.replicate 19 (.read 15 []) := by
    rw [respFrame_length]
    exact readEvents_replicate_nil 15 19
  rw [blockEvents, readEvents, hsilent]
  rfl

/-! ## The command (R134) -/

theorem usesWork_cryptblock : usesWork (encode .cryptblock) = false := rfl

/-- The operands of CRYPTBLOCK pass every check, and its input is `x`. -/
structure CryptblockReady (s : State) (x : Bytes) : Prop where
  legal : s.cfg.Legal
  inlen : s.ops.inlen = 16
  outcapLow : 16 ≤ s.ops.outcap.toNat
  outcapHigh : s.ops.outcap.toNat ≤ s.cfg.bufCap
  slot : s.ops.pSlot.toNat ≤ 15
  key : s.ops.pKeyidx.toNat ≤ 3
  input : readInbuf 0 16 s = some x

section
variable {s : State} {x : Bytes}

theorem CryptblockReady.keyChecks_pass (h : CryptblockReady s x) :
    firstError (keyChecks s.ops.pSlot s.ops.pKeyidx) = none := by
  simp [keyChecks, firstError, Param.slotMax, Param.keyIdxMax, Nat.not_lt.2 h.slot, Nat.not_lt.2 h.key]

theorem CryptblockReady.validate_eq_none (h : CryptblockReady s x) : validate .cryptblock s = none := by
  obtain ⟨-, -, -, hcap, -⟩ := h.legal
  have hinlen : s.ops.inlen.toNat = 16 := by rw [h.inlen]; rfl
  have hfits : capacityExceeded s = false := capacityExceeded_eq_false.2 ⟨by omega, h.outcapHigh⟩
  simp [validate, validateCryptblock, firstError, hfits, hinlen, Nat.not_lt.2 h.outcapLow, h.keyChecks_pass]

theorem CryptblockReady.input_length_le (h : CryptblockReady s x) : x.length ≤ s.cfg.maxPayload := by
  rw [readBytes_length h.input, h.legal.1]
  omega

end

section
variable (x : Bytes) (cs rest : List Bytes) (s : State)

/-- CRYPTBLOCK from `s` when its block has been received. -/
def cryptblockReceived : State :=
  received 19 cs rest
    (blockSent x s.ops.pSlot s.ops.pKeyidx (directionOfBit s.ops.pDir) (startCommand (encode .cryptblock) s))

/-- CRYPTBLOCK from `s`, completed when its receive came to the outcome `o`. -/
def cryptblockCompletion (o : Except Err Bytes) : State :=
  complete .cryptblock (releasing (blockAnswer cs.flatten (cryptblockReceived x cs rest s) o))

theorem cryptblockCompletion_ok (p : Bytes) :
    cryptblockCompletion x cs rest s (.ok p) = finishCommand (releaseOut p (cryptblockReceived x cs rest s)) := rfl

/-- The classification may write the CRC register before the command fails (R133). -/
theorem cryptblockCompletion_error (e : Err) :
    ∃ r, cryptblockCompletion x cs rest s (.error e) =
      errorCompletion (classify s.cfg cs.flatten e) (setCrcreg r (cryptblockReceived x cs rest s)) := by
  obtain ⟨r, hr⟩ := classifyEffect_frame cs.flatten (cryptblockReceived x cs rest s)
  exact ⟨r, congrArg (errorCompletion (classify s.cfg cs.flatten e)) hr⟩

theorem cryptblockReceived_trace :
    (cryptblockReceived x cs rest s).trace =
      s.trace ++ blockEvents s.cfg s.ops.pSlot s.ops.pKeyidx (directionOfBit s.ops.pDir) x cs := by
  simp [cryptblockReceived, received_trace, blockSent_trace, blockEvents]

/-- Whatever the outcome, CRYPTBLOCK leaves the events of its one block in the trace; but for the transport's registers and
the results, nothing else changes. -/
theorem cryptblockCompletion_frame (o : Except Err Bytes) :
    let t := cryptblockCompletion x cs rest s o
    t.trace = s.trace ++ blockEvents s.cfg s.ops.pSlot s.ops.pKeyidx (directionOfBit s.ops.pDir) x cs ∧
      t.answers = rest ∧ KeepsHostOwned s t ∧ KeepsContext s t ∧ KeepsWork s t := by
  rw [← cryptblockReceived_trace x cs rest s]
  cases o with
  | error e =>
    obtain ⟨r, hr⟩ := cryptblockCompletion_error x cs rest s e
    simp [hr, cryptblockReceived, received, answered, blockSent, storeFrame, KeepsHostOwned, KeepsContext, KeepsWork,
      usesWork_cryptblock]
  | ok p =>
    simp [cryptblockCompletion_ok, cryptblockReceived, received, answered, blockSent, storeFrame, KeepsHostOwned,
      KeepsContext, KeepsWork, usesWork_cryptblock]

theorem cryptblockCompletion_failed (e : Err) :
    FailedWith .cryptblock (classify s.cfg cs.flatten e) s (cryptblockCompletion x cs rest s (.error e)) := by
  obtain ⟨r, hr⟩ := cryptblockCompletion_error x cs rest s e
  simp [hr, cryptblockReceived, received, answered, blockSent, storeFrame, FailedWith, Completed]

/-- A block that succeeds leaves `CRCREG` as its receive did. -/
theorem cryptblockCompletion_ok_crcreg (p : Bytes) :
    (cryptblockCompletion x cs rest s (.ok p)).crcreg =
      receivedCrc s.cfg 19 cs.flatten (crcReg (frameBody s.cfg s.cfg.aesOpcode
        (modeByte s.ops.pKeyidx (directionOfBit s.ops.pDir)) (s.ops.pSlot.setWidth 16) x)) := by
  simp [cryptblockCompletion_ok, cryptblockReceived, received, blockSent, storeFrame]

/-- A block of 16 bytes is released; the transport keeps the frame sent and the bytes received. -/
theorem cryptblockCompletion_released {p : Bytes} (hp : p.length = 16) (hx : x.length = 16) :
    let t := cryptblockCompletion x cs rest s (.ok p)
    let f := cryptFrame s.cfg s.ops.pSlot s.ops.pKeyidx (directionOfBit s.ops.pDir) x
    Succeeded .cryptblock t ∧ t.crcout = 0 ∧ t.outlen = 16 ∧ Wrote s.outbuf t.outbuf 0 p ∧ Wrote s.txbuf t.txbuf 0 f ∧
      t.txlen = 24 ∧ Wrote s.rxbuf t.rxbuf 0 cs.flatten ∧ t.rxcnt = cs.flatten.length ∧ t.attempts = cs.length ∧
      t.blk = 0 := by
  simp [cryptblockCompletion_ok, cryptblockReceived, received, answered, blockSent, storeFrame, cryptFrame, Succeeded,
    Completed, Wrote, read_writeBytes, hp, hx]

end

/-- CRYPTBLOCK, when its requests are answered by `cs`, completes with what its block comes to (R134). -/
theorem exec_cryptblock_received {s : State} {x : Bytes} {cs rest : List Bytes} (hready : CryptblockReady s x)
    (hpartial : chunksPartial 19 cs) (hlen : cs.length ≤ 20) (hstop : cs.flatten.length < 19 → cs.length = 20)
    (hans : s.answers = cs ++ rest) :
    exec .cryptblock s = .next (cryptblockCompletion x cs rest s (receiveOutcome s.cfg 19 cs.flatten)) := by
  have hstart : readInbuf 0 16 (startCommand (encode .cryptblock) s) = some x := hready.input
  have hblock := cryptBlock_received (s := startCommand (encode .cryptblock) s) (dir := directionOfBit s.ops.pDir)
    hready.keyChecks_pass hready.input_length_le hpartial hlen hstop hans
  rw [exec_of_valid ((validate_startCommand _ _ s).trans hready.validate_eq_none), attemptChecked, hstart,
    Option.map_some, startCommand_ops, hblock]
  rfl

/-- A block that fails completes CRYPTBLOCK with its error. -/
theorem exec_cryptblock_of_failsBlock {s : State} {x : Bytes} {ch rest : List Bytes} {e : Err}
    (hready : CryptblockReady s x) (hfails : FailsBlock s.cfg ch e) (hans : s.answers = ch ++ rest) :
    ∃ t, exec .cryptblock s = .next t ∧ FailedWith .cryptblock e s t ∧
      t.trace = s.trace ++ blockEvents s.cfg s.ops.pSlot s.ops.pKeyidx (directionOfBit s.ops.pDir) x ch ∧
      t.answers = rest ∧ KeepsHostOwned s t ∧ KeepsContext s t ∧ KeepsWork s t := by
  obtain ⟨e0, hout, rfl⟩ := receiveOutcome_of_failsBlock hfails
  obtain ⟨hlen, hpartial, hstop, -⟩ := hfails
  have hexec := exec_cryptblock_received hready hpartial hlen hstop hans
  rw [hout] at hexec
  exact ⟨_, hexec, cryptblockCompletion_failed x ch rest s e0, cryptblockCompletion_frame x ch rest s (.error e0)⟩

/-- Settles O22: chunks that make up the response frame of 16 bytes are complete, and parse back to them. -/
theorem cryptblockReleasesTheDevicesBlock : Obligations.CryptblockReleasesTheDevicesBlock := by
  intro s x p cs rest hlegal hinlen hlow hhigh hslot hkey hread hp hlen hfit hframe hans
  have hready : CryptblockReady s x := ⟨hlegal, hinlen, hlow, hhigh, hslot, hkey, hread⟩
  have htotal : cs.flatten.length = 19 := length_of_chunksFit hfit
  have hself := s.cfg.countSelf.toNat_le
  have hparse : parseResponse s.cfg cs.flatten = .ok p := hframe ▸ parseResponse_respFrame (by omega)
  have hexec := exec_cryptblock_received hready (chunksPartial_of_chunksFit hfit) hlen (by omega) hans
  rw [receiveOutcome_of_complete htotal (by omega), hparse] at hexec
  obtain ⟨htrace, hleft, hhost, hctx, hwork⟩ := cryptblockCompletion_frame x cs rest s (.ok p)
  obtain ⟨hok, hcrcout, houtlen, houtbuf, htxbuf, htxlen, hrxbuf, hrxcnt, hatt, hblk⟩ :=
    cryptblockCompletion_released x cs rest s hp (readBytes_length hread)
  have hcrc : (cryptblockCompletion x cs rest s (.ok p)).crcreg = crcReg ((respFrame s.cfg p).take 17) := by
    rw [cryptblockCompletion_ok_crcreg, receivedCrc_of_ok htotal (by omega) hparse, htotal, hframe]
  exact ⟨_, hexec, hok, hcrcout, houtlen, houtbuf, by simpa [blockEvents] using htrace, hleft, htxbuf, htxlen,
    hframe ▸ hrxbuf, hrxcnt.trans htotal, hatt, hcrc, hhost, hctx, hwork, hblk⟩

/-- Settles O23: the status frame followed by silence is one of the answers that make the block fail. -/
theorem statusFrameBecomesDeviceError : Obligations.StatusFrameBecomesDeviceError := by
  refine ⟨fun s x status rest hlegal hinlen hlow hhigh hslot hkey hread hans => ?_,
    fun s x ch rest e hlegal hinlen hlow hhigh hslot hkey hread hfails hans =>
      exec_cryptblock_of_failsBlock ⟨hlegal, hinlen, hlow, hhigh, hslot, hkey, hread⟩ hfails hans⟩
  obtain ⟨t, hexec, hfailed, htrace, hkept⟩ :=
    exec_cryptblock_of_failsBlock ⟨hlegal, hinlen, hlow, hhigh, hslot, hkey, hread⟩
      (failsBlock_of_status_then_silence s.cfg status) hans
  rw [blockEvents_of_status_then_silence] at htrace
  refine ⟨t, hexec, fun hne => ?_, fun hzero => ?_, by simpa using htrace, hkept⟩
  · rw [if_neg hne] at hfailed
    have ⟨_, _, herr, hdevstat, _⟩ := hfailed
    exact ⟨hfailed, herr, hdevstat⟩
  · rw [if_pos hzero] at hfailed
    have ⟨_, _, herr, hdevstat, _⟩ := hfailed
    exact ⟨hfailed, herr, hdevstat⟩

end Sys2Proof.Machine

/-! # The size policy, the context and the padding: O16, O17, O24 to O27

Each of the two commands is its checks read off the operands and its completion field by field. PKCS#7 is described by its
tail, `k` bytes of value `k`: padding appends one and unpadding accepts nothing else. -/

namespace Sys2Proof.Machine

/-! ## The size policy (R140) -/

theorem requiredOutputSize_noPad_of_whole {n : Nat} (h : n % 16 = 0) : requiredOutputSize n .noPad = .ok n :=
  if_pos h

theorem requiredOutputSize_noPad_of_partial {n : Nat} (h : n % 16 ≠ 0) :
    requiredOutputSize n .noPad = .error .invalidInputLength :=
  if_neg h

theorem requiredOutputSize_pkcs7 (n : Nat) : requiredOutputSize n .pkcs7 = .ok ((n / 16 + 1) * 16) := rfl

/-- Settles O24: one clause for each case of the policy. -/
theorem outputSizePolicy : Obligations.OutputSizePolicy := fun n =>
  ⟨requiredOutputSize_noPad_of_whole, requiredOutputSize_noPad_of_partial,
    _, requiredOutputSize_pkcs7 n, rfl, by omega, by omega, by omega⟩

theorem paddingOfBit_zero : paddingOfBit 0 = .noPad := rfl

theorem paddingOfBit_of_ne_zero {b : BitVec 1} (h : b ≠ 0) : paddingOfBit b = .pkcs7 := if_neg h

/-- The policy for a padding bit under which the length is accepted. -/
theorem requiredOutputSize_of_accepted {n : Nat} {b : BitVec 1} (h : b = 0 → n % 16 = 0) :
    requiredOutputSize n (paddingOfBit b) = .ok (if b = 0 then n else (n / 16 + 1) * 16) := by
  by_cases hb : b = 0
  · rw [if_pos hb, hb, paddingOfBit_zero, requiredOutputSize_noPad_of_whole (h hb)]
  · rw [if_neg hb, paddingOfBit_of_ne_zero hb, requiredOutputSize_pkcs7]

theorem sizeFails_of_ok {n total : Nat} {p : Padding} (h : requiredOutputSize n p = .ok total) :
    sizeFails n p = false := by
  simp [sizeFails, h]

theorem sizeFails_of_error {n : Nat} {p : Padding} {e : Err} (h : requiredOutputSize n p = .error e) :
    sizeFails n p = true := by
  simp [sizeFails, h]

/-! ## REQSIZE (R141) -/

theorem validateReqsize_eq_invalidParameter {s : State} (h : s.cfg.bufCap < s.ops.inlen.toNat) :
    validateReqsize s = some .invalidParameter := by
  simp [validateReqsize, firstError, h]

theorem validateReqsize_eq_invalidInputLength {s : State} (hin : s.ops.inlen.toNat ≤ s.cfg.bufCap)
    (hpad : s.ops.pPad = 0) (hpartial : s.ops.inlen.toNat % 16 ≠ 0) :
    validateReqsize s = some .invalidInputLength := by
  have hfails : sizeFails s.ops.inlen.toNat (paddingOfBit s.ops.pPad) = true := by
    rw [hpad, paddingOfBit_zero]
    exact sizeFails_of_error (requiredOutputSize_noPad_of_partial hpartial)
  simp [validateReqsize, firstError, Nat.not_lt.2 hin, hfails]

theorem usesWork_reqsize : usesWork (encode .reqsize) = false := rfl

/-- A length with an output size makes it `OUTLEN`. -/
theorem exec_reqsize_of_size {s : State} {n : Nat} (hin : s.ops.inlen.toNat ≤ s.cfg.bufCap)
    (hsize : requiredOutputSize s.ops.inlen.toNat (paddingOfBit s.ops.pPad) = .ok n) :
    exec .reqsize s = .next (finishCommand (setOutlen n (startCommand (encode .reqsize) s))) := by
  have hv : validate .reqsize s = none := by
    simp [validate, validateReqsize, firstError, Nat.not_lt.2 hin, sizeFails_of_ok hsize]
  rw [exec_of_valid ((validate_startCommand _ _ s).trans hv), attemptChecked, startCommand_ops, hsize]
  rfl

/-- Settles O16: the failed checks, then the success field by field. -/
theorem reqsizeCommandMeaning : Obligations.ReqsizeCommandMeaning := by
  intro s
  refine ⟨fun h => ?_, fun hin hpad hpartial => ?_, fun hin hcap haccepted => ?_⟩
  · exact exec_of_failed_check (by decide) usesWork_reqsize (validateReqsize_eq_invalidParameter h)
  · exact exec_of_failed_check (by decide) usesWork_reqsize (validateReqsize_eq_invalidInputLength hin hpad hpartial)
  · refine ⟨_, exec_reqsize_of_size hin (requiredOutputSize_of_accepted haccepted), ?_⟩
    have hfits : (if s.ops.pPad = 0 then s.ops.inlen.toNat else (s.ops.inlen.toNat / 16 + 1) * 16) < 65536 := by
      split <;> omega
    simpa [Succeeded, Completed, KeepsHostOwned, KeepsContext, KeepsBus, KeepsHidden, KeepsTx, KeepsRx, KeepsWork,
      usesWork_reqsize] using hfits

/-! ## CTXSET (R142) -/

theorem usesWork_ctxset : usesWork (encode .ctxset) = false := rfl

theorem validateCtxset_eq_ivMissing {s : State} (hmode : s.ops.pMode = 1) (hiv : s.ops.pIvpresent = 0) :
    validateCtxset s = some .ivMissing := by
  simp [validateCtxset, firstError, hmode, hiv, modeOfBit]

theorem validateCtxset_eq_none {s : State} (h : s.ops.pMode = 0 ∨ s.ops.pIvpresent = 1) :
    validateCtxset s = none := by
  rcases h with h | h <;> simp [validateCtxset, firstError, h, modeOfBit]

/-- CBC without an IV clears `CTX_VALID` on the way to its error. -/
theorem exec_ctxset_of_ivMissing {s : State} (hmode : s.ops.pMode = 1) (hiv : s.ops.pIvpresent = 0) :
    exec .ctxset s = .next (errorCompletion .ivMissing (setCtxValid false (startCommand (encode .ctxset) s))) := by
  have hv : validate .ctxset s = some .ivMissing := validateCtxset_eq_ivMissing hmode hiv
  rw [exec_of_invalid ((validate_startCommand _ _ s).trans hv)]
  rfl

/-- Any other operands become the context. -/
theorem exec_ctxset_of_valid {s : State} (h : s.ops.pMode = 0 ∨ s.ops.pIvpresent = 1) :
    exec .ctxset s =
      .next (finishCommand (setOutlen 0 (setContext (newContext s.ops) (startCommand (encode .ctxset) s)))) := by
  have hv : validate .ctxset s = none := validateCtxset_eq_none h
  rw [exec_of_valid ((validate_startCommand _ _ s).trans hv)]
  rfl

/-- Settles O17: both completions, field by field. -/
theorem ctxsetCommandMeaning : Obligations.CtxsetCommandMeaning := by
  intro s
  refine ⟨fun hmode hiv => ⟨_, exec_ctxset_of_ivMissing hmode hiv, ?_⟩, fun h => ⟨_, exec_ctxset_of_valid h, ?_⟩⟩
  · simp [FailedWith, Completed, KeepsHostOwned, KeepsBus, KeepsHidden, KeepsTx, KeepsRx, KeepsWork, usesWork_ctxset]
  · simp [Succeeded, Completed, newContext, KeepsHostOwned, KeepsBus, KeepsHidden, KeepsTx, KeepsRx, KeepsWork,
      usesWork_ctxset]

/-! ## PKCS#7 (R144, R145) -/

/-- Padding appends what is missing to the next multiple of 16. -/
theorem pad7_eq (pt : Bytes) :
    pad7 pt = pt ++ rep (BitVec.ofNat 8 (16 - pt.length % 16)) (16 - pt.length % 16) := by
  rw [pad7, padBytes, show (pt.length / 16 + 1) * 16 - pt.length = 16 - pt.length % 16 by omega]

/-- Settles O25: the missing bytes are counted by `pad7_eq`. -/
theorem paddingFillsTheLastBlock : Obligations.PaddingFillsTheLastBlock := by
  intro pt
  refine ⟨16 - pt.length % 16, by omega, by omega, rfl, pad7_eq pt, ?_, fun haligned => ?_⟩
  · rw [pad7_eq, List.length_append, rep_length]
    omega
  · rw [pad7_eq, haligned]
    rfl

/-- A tail of `k` bytes of value `k` is removed. -/
theorem unpad7_append_rep {r : Bytes} {k : Nat} (hlo : 1 ≤ k) (hhi : k ≤ 16) :
    unpad7 (r ++ rep (BitVec.ofNat 8 k) k) = .ok r := by
  have hlast : (r ++ rep (BitVec.ofNat 8 k) k).getLast? = some (BitVec.ofNat 8 k) := by
    rw [rep, List.getLast?_append, List.getLast?_replicate, if_neg (by omega)]
    rfl
  have hvalue : (BitVec.ofNat 8 k).toNat = k := by
    rw [BitVec.toNat_ofNat]
    omega
  have hrange : ¬(k = 0 ∨ Param.padMax < k) := by
    rw [Param.padMax]
    omega
  simp only [unpad7, hlast, hvalue, hrange, if_false]
  simp [rep]

/-- Only such a tail is accepted, when the buffer is long enough to hold the longest one. -/
theorem eq_append_rep_of_unpad7_ok {d r : Bytes} (hlen : Param.padMax ≤ d.length) (h : unpad7 d = .ok r) :
    ∃ k : Nat, 1 ≤ k ∧ k ≤ 16 ∧ d = r ++ rep (BitVec.ofNat 8 k) k := by
  unfold unpad7 at h
  split at h
  · cases h
  rename_i p _
  split at h
  · cases h
  rename_i hrange
  split at h
  · rename_i hall
    cases h
    have hpos : p.toNat ≠ 0 := fun h => hrange (.inl h)
    have hmax : p.toNat ≤ Param.padMax := Nat.not_lt.1 fun h => hrange (.inr h)
    have htail : d.drop (d.length - p.toNat) = rep p p.toNat := by
      refine List.eq_replicate_iff.2 ⟨by rw [List.length_drop]; omega, fun b hb => ?_⟩
      exact eq_of_beq (List.all_eq_true.1 hall b hb)
    refine ⟨p.toNat, by omega, hmax, ?_⟩
    rw [BitVec.ofNat_toNat, BitVec.setWidth_eq, ← htail, List.take_append_drop]
  · cases h

theorem unpad7_error {d : Bytes} {e : Err} (h : unpad7 d = .error e) : e = .paddingError := by
  unfold unpad7 at h
  repeat' split at h
  all_goals cases h
  all_goals rfl

/-- Settles O26: whole blocks that are not empty can hold every tail, and the empty buffer ends in none. -/
theorem unpadAcceptsExactlyPaddedBuffers : Obligations.UnpadAcceptsExactlyPaddedBuffers := by
  refine fun d hwhole => ⟨fun r => ⟨fun h => ?_, ?_⟩, fun e => unpad7_error⟩
  · have hne : d.length ≠ 0 := fun hzero => by
      rw [List.length_eq_zero_iff.1 hzero] at h
      cases h
    exact eq_append_rep_of_unpad7_ok (by rw [Param.padMax]; omega) h
  · rintro ⟨k, hlo, hhi, rfl⟩
    exact unpad7_append_rep hlo hhi

/-- Settles O27: what padding appends is a tail that unpadding removes. -/
theorem unpadInvertsPad : Obligations.UnpadInvertsPad := by
  intro pt
  rw [pad7_eq]
  exact unpad7_append_rep (by omega) (by omega)

end Sys2Proof.Machine

/-! # The block loops: O28, O29

Both loops do the same for a block: send it, get it back, store it, and go on with the block as the chaining variable. What
one block does is said once (`cryptBlock_answersBlock`, `cryptBlock_failsBlock`), with what it changes as the relation
`Advances`, which is closed under composition. How a run of blocks ends, with all of them back or with one that fails, is a
value of `Ending`, so that each loop takes one induction. -/

namespace Sys2Proof.Machine

/-! ## What a run of blocks changes -/

/-- `t` is `s` after `n` blocks have come back, with the bus events `evs`. The transmit buffer differs below 24, the length
of a block's frame, the receive buffer below 19, that of its response, and WORK below the end of the last of these blocks. -/
structure Advances (n : Nat) (evs : List BusEvent) (s t : State) : Prop extends KeepsBesideLoop s t where
  trace : t.trace = s.trace ++ evs
  blk : t.blk = s.blk + n
  txbuf : ∀ a, 24 ≤ a → t.txbuf.read a = s.txbuf.read a
  rxbuf : ∀ a, 19 ≤ a → t.rxbuf.read a = s.rxbuf.read a
  work : ∀ a, 16 * t.blk ≤ a → t.work.read a = s.work.read a

theorem Advances.refl (s : State) : Advances 0 [] s s :=
  { KeepsBesideLoop.refl s with
    trace := (List.append_nil _).symm, blk := rfl, txbuf := fun _ _ => rfl, rxbuf := fun _ _ => rfl, work := fun _ _ => rfl }

theorem Advances.trans {n m : Nat} {evs evs' : List BusEvent} {s t u : State} (h : Advances n evs s t)
    (h' : Advances m evs' t u) : Advances (n + m) (evs ++ evs') s u :=
  { h.toKeepsBesideLoop.trans h'.toKeepsBesideLoop with
    trace := by rw [h'.trace, h.trace, List.append_assoc]
    blk := by rw [h'.blk, h.blk, Nat.add_assoc]
    txbuf := fun a ha => (h'.txbuf a ha).trans (h.txbuf a ha)
    rxbuf := fun a ha => (h'.rxbuf a ha).trans (h.rxbuf a ha)
    work := fun a ha => (h'.work a ha).trans (h.work a (by have := h'.blk; omega)) }

/-- A write leaves alone what lies behind it. -/
theorem read_writeBytes_above (m : Memory) {off : Nat} {bs : Bytes} {a : Nat} (h : off + bs.length ≤ a) :
    (m.writeBytes off bs).read a = m.read a := by
  rw [read_writeBytes, if_neg (by omega)]

theorem setCrcreg_advances (r : Word16) (s : State) : Advances 0 [] s (setCrcreg r s) :=
  { (setCrcreg_frame r s).toKeepsBesideLoop, Advances.refl s with }

theorem encStore_advances {c : Bytes} (s : State) (hc : c.length = 16) : Advances 1 [] s (encStore c s) :=
  { encStore_frame c s with
    trace := (List.append_nil _).symm, blk := rfl, txbuf := fun _ _ => rfl, rxbuf := fun _ _ => rfl
    work := fun a ha => read_writeBytes_above _ (by simp only [encStore_blk] at ha; omega) }

theorem decStore_advances (c : Bytes) {d : Bytes} (s : State) (hd : d.length = 16) : Advances 1 [] s (decStore c d s) :=
  { decStore_frame c d s with
    trace := (List.append_nil _).symm, blk := rfl, txbuf := fun _ _ => rfl, rxbuf := fun _ _ => rfl
    work := fun a ha => read_writeBytes_above _ (by
      simp only [decStore_blk] at ha
      rw [decOutput_length hd]
      omega) }

/-! ## One block -/

theorem received_txbuf (x : Bytes) (slot key : Byte) (dir : Direction) (s : State) (ch rest : List Bytes) :
    (received 19 ch rest (blockSent x slot key dir s)).txbuf =
      s.txbuf.writeBytes 0 (cryptFrame s.cfg slot key dir x) := by
  simp [received, answered, blockSent, storeFrame, cryptFrame]

theorem received_rxbuf (x : Bytes) (slot key : Byte) (dir : Direction) (s : State) (ch rest : List Bytes) :
    (received 19 ch rest (blockSent x slot key dir s)).rxbuf = s.rxbuf.writeBytes 0 ch.flatten := by
  simp [received, answered, blockSent, storeFrame]

theorem blockSent_frame (x : Bytes) (slot key : Byte) (dir : Direction) (s : State) :
    KeepsBesideLink s (blockSent x slot key dir s) :=
  (storeFrame_frame _ _ _ _ s).trans (sendEvents_frame _ _)

theorem answered_frame (e : Nat) (cs rest : List Bytes) (s : State) :
    KeepsBesideLink s (busIdle (answered e cs rest s)) :=
  ⟨by constructor <;> rfl, rfl, rfl, rfl⟩

theorem received_frame (x : Bytes) (slot key : Byte) (dir : Direction) (s : State) (ch rest : List Bytes) :
    KeepsBesideLink s (received 19 ch rest (blockSent x slot key dir s)) :=
  (blockSent_frame x slot key dir s).trans ((answered_frame 19 ch rest _).trans (setCrcreg_frame _ _))

/-- What one block of 16 bytes leaves when its requests are answered. -/
theorem received_advances {x : Bytes} {slot key : Byte} {dir : Direction} {s : State} {ch rest : List Bytes}
    (hx : x.length = 16) (hpartial : chunksPartial 19 ch) :
    Advances 0 (blockEvents s.cfg slot key dir x ch) s (received 19 ch rest (blockSent x slot key dir s)) where
  toKeepsBesideLoop := (received_frame x slot key dir s ch rest).toKeepsBesideLoop
  trace := by simp [received_trace, blockSent_trace, blockEvents]
  blk := (received_frame x slot key dir s ch rest).blk
  txbuf a ha := by
    rw [received_txbuf, read_writeBytes_above _ (by rw [cryptFrame, commandFrame_length]; omega)]
  rxbuf a ha := by
    have hlen := chunksPartial_length_le hpartial
    rw [received_rxbuf, read_writeBytes_above _ (by omega)]
  work _ _ := by rw [(received_frame x slot key dir s ch rest).work]

section
variable {x : Bytes} {slot key : Byte} {dir : Direction} {s : State} {ch rest : List Bytes}

/-- A block that comes back. -/
theorem cryptBlock_answersBlock {c : Bytes} (hkey : firstError (keyChecks slot key) = none) (hmax : 16 ≤ s.cfg.maxPayload)
    (hx : x.length = 16) (hback : AnswersBlock s.cfg ch c) (hans : s.answers = ch ++ rest) :
    ∃ t, cryptBlock x slot key dir s = (.ok c, t) ∧ t.answers = rest ∧
      t.cv = s.cv ∧ Advances 0 (blockEvents s.cfg slot key dir x ch) s t := by
  obtain ⟨hc, hlen, hfit, hframe⟩ := hback
  have htotal := length_of_chunksFit hfit
  have hpartial := chunksPartial_of_chunksFit hfit
  refine ⟨_, ?_, rfl, (received_frame x slot key dir s ch rest).cv, received_advances hx hpartial⟩
  rw [cryptBlock_received hkey (hx ▸ hmax) hpartial hlen (by omega) hans, hframe, ← Param.cryptRespLen,
    receiveOutcome_respFrame hc]
  rfl

/-- A block that fails. -/
theorem cryptBlock_failsBlock {e : Err} (hkey : firstError (keyChecks slot key) = none) (hmax : 16 ≤ s.cfg.maxPayload)
    (hx : x.length = 16) (hfails : FailsBlock s.cfg ch e) (hans : s.answers = ch ++ rest) :
    ∃ t, cryptBlock x slot key dir s = (.error e, t) ∧ t.answers = rest ∧
      Advances 0 (blockEvents s.cfg slot key dir x ch) s t := by
  obtain ⟨e0, hout, rfl⟩ := receiveOutcome_of_failsBlock hfails
  obtain ⟨hlen, hpartial, hstop, -⟩ := hfails
  obtain ⟨r, hr⟩ := classifyEffect_frame ch.flatten (received 19 ch rest (blockSent x slot key dir s))
  refine ⟨setCrcreg r (received 19 ch rest (blockSent x slot key dir s)), ?_, rfl, ?_⟩
  · rw [cryptBlock_received hkey (hx ▸ hmax) hpartial hlen hstop hans, hout, blockAnswer, hr, received_cfg, blockSent_cfg]
  · simpa using (received_advances hx hpartial).trans (setCrcreg_advances r _)

end

/-! ## The chaining variable (R148, R149, R152, R153) -/

/-- A block joined with the chaining value before it: in CBC exclusive-ored with it, in ECB as it is. -/
def chained : Mode → Bytes → Bytes → Bytes
  | .ecb, b, _ => b
  | .cbc, b, v => xorBytes b v

theorem chained_length {b v : Bytes} (m : Mode) (hb : b.length = 16) (hv : v.length = 16) :
    (chained m b v).length = 16 := by
  cases m <;> simp [chained, hb, hv]

/-- Joining a block twice with the same value gives it back (the step behind R156). -/
theorem chained_chained {b v : Bytes} (m : Mode) (h : b.length = v.length) : chained m (chained m b v) v = b := by
  cases m
  · rfl
  · exact xorBytes_cancel h

theorem sentBlocks_cons (m : Mode) (v p c : Bytes) (ps cs : List Bytes) :
    sentBlocks m v (p :: ps) (c :: cs) = chained m p v :: sentBlocks m c ps cs := by
  cases m <;> rfl

theorem sentBlocks_cons_nil (m : Mode) (v p : Bytes) (ps : List Bytes) :
    sentBlocks m v (p :: ps) [] = [chained m p v] := by
  cases m <;> simp [sentBlocks, chained]

theorem plainBlocks_cons (m : Mode) (v c d : Bytes) (cs ds : List Bytes) :
    plainBlocks m v (c :: cs) (d :: ds) = chained m d v :: plainBlocks m c cs ds := by
  cases m <;> rfl

theorem ivOfBytes_cons (b : Byte) (bs : Bytes) : ivOfBytes (b :: bs) = (ivOfBytes bs <<< 8) ||| b.setWidth 128 := rfl

theorem ivOfBytes_extract {bs : Bytes} {i : Nat} (hi : i < bs.length) (hfit : i < 16) :
    (ivOfBytes bs).extractLsb' (8 * i) 8 = bs[i] := by
  induction bs generalizing i with
  | nil => cases hi
  | cons b bs ih =>
    refine BitVec.eq_of_getLsbD_eq fun j hj => ?_
    obtain _ | i := i
    · simp [ivOfBytes_cons, hj, show j < 128 by omega]
    · have hbit : b.getLsbD (8 * (i + 1) + j) = false := BitVec.getLsbD_of_ge _ _ (by omega)
      rw [List.getElem_cons_succ, ← ih (by simpa using hi) (by omega)]
      simp [ivOfBytes_cons, hj, hbit, show 8 * (i + 1) + j < 128 by omega, show ¬8 * (i + 1) + j < 8 by omega,
        show 8 * (i + 1) + j - 8 = 8 * i + j by omega, BitVec.getLsbD_eq_getElem (show 8 * i + j < 128 by omega)]

/-- A block survives being kept in a 128-bit register (R48 e). -/
theorem bytesOfIv_ivOfBytes {bs : Bytes} (h : bs.length = 16) : bytesOfIv (ivOfBytes bs) = bs := by
  refine List.ext_getElem (by simp [h]) fun i hi hi' => ?_
  simpa [bytesOfIv] using ivOfBytes_extract hi' (by omega)

/-- `s` can send blocks whose first is chained to `v`: its context passes the checks, a block fits into a frame, and in CBC
the chaining variable is `v`. -/
structure ChainReady (v : Bytes) (s : State) : Prop where
  key : firstError (keyChecks s.ctx.slot s.ctx.keyIdx) = none
  max : 16 ≤ s.cfg.maxPayload
  length : v.length = 16
  cv : modeOfBit s.ctx.mode = .cbc → bytesOfIv s.cv = v

section
variable {v : Bytes} {s t : State}

theorem ChainReady.of_keeps (h : ChainReady v s) (hk : KeepsBesideLoop s t) (hcv : t.cv = s.cv) : ChainReady v t where
  key := by rw [hk.ctx]; exact h.key
  max := by rw [hk.cfg]; exact h.max
  length := h.length
  cv hm := by rw [hcv]; exact h.cv (hk.ctx ▸ hm)

theorem ChainReady.encInput_eq (h : ChainReady v s) (b : Bytes) :
    encInput b s = chained (modeOfBit s.ctx.mode) b v := by
  have hcv := h.cv
  unfold encInput
  cases hm : modeOfBit s.ctx.mode with
  | ecb => rfl
  | cbc => rw [hcv hm]; rfl

theorem ChainReady.decOutput_eq (h : ChainReady v s) (d : Bytes) :
    decOutput d s = chained (modeOfBit s.ctx.mode) d v :=
  h.encInput_eq d

/-- The block that came back is the next chaining variable of ENCRYPT (R149). -/
theorem ChainReady.encStore (h : ChainReady v s) {c : Bytes} (hc : c.length = 16) : ChainReady c (encStore c s) where
  key := h.key
  max := h.max
  length := hc
  cv hm := by
    have hm' : modeOfBit s.ctx.mode = .cbc := hm
    simp only [encStore_cv, hm', bytesOfIv_ivOfBytes hc]

/-- The block that was sent is the next chaining variable of DECRYPT (R153). -/
theorem ChainReady.decStore (h : ChainReady v s) {c : Bytes} (d : Bytes) (hc : c.length = 16) :
    ChainReady c (decStore c d s) where
  key := h.key
  max := h.max
  length := hc
  cv hm := by
    have hm' : modeOfBit s.ctx.mode = .cbc := hm
    simp only [decStore_cv, hm', bytesOfIv_ivOfBytes hc]

end

/-! ## How a run of blocks ends -/

/-- How the blocks of a command end, after some have come back: there are no more, or the next one fails (R150). -/
inductive Ending where
  | allBack
  | failed (ch : List Bytes) (e : Err)

/-- The chunks of the block that fails. -/
def Ending.lastChunks : Ending → List (List Bytes)
  | .allBack => []
  | .failed ch _ => [ch]

/-- An ending after `back` of `total` blocks that the device can bring about. -/
def Ending.Fits (cfg : Config) (back total : Nat) : Ending → Prop
  | .allBack => back = total
  | .failed ch e => back < total ∧ FailsBlock cfg ch e

/-- What ENCRYPT's loop comes to when the blocks that came back make up `out`. -/
def Ending.outcome (out : Bytes) : Ending → Except Err Bytes
  | .allBack => .ok out
  | .failed _ e => .error e

/-- What DECRYPT's loop comes to in `t` when the plaintext so far is `plain`. -/
def Ending.decResult (plain : Bytes) (t : State) : Ending → DecResult
  | .allBack => .done plain t
  | .failed _ e => .failed e t

section
variable {cfg : Config} {back total : Nat} {ending : Ending}

theorem Ending.Fits.le (h : ending.Fits cfg back total) : back ≤ total := by
  cases ending with
  | allBack => exact h.le
  | failed ch e => exact h.1.le

theorem Ending.fits_succ : ending.Fits cfg (back + 1) (total + 1) ↔ ending.Fits cfg back total := by
  cases ending <;> simp [Ending.Fits]

end

/-! ## The loop of ENCRYPT (R147 to R150) -/

/-- The loop sends the blocks chained to the answers before them, until the ending. -/
theorem encBlocks_ending {ps cs rest : List Bytes} {css : List (List Bytes)} {v : Bytes} {s : State}
    {ending : Ending} (hready : ChainReady v s) (hps : ∀ p ∈ ps, p.length = 16)
    (hback : List.Forall₂ (AnswersBlock s.cfg) css cs) (hfits : ending.Fits s.cfg cs.length ps.length)
    (hans : s.answers = (css ++ ending.lastChunks).flatten ++ rest) :
    ∃ t, encBlocks ps s = (ending.outcome cs.flatten, t) ∧ t.answers = rest ∧
      Advances cs.length (List.zipWith (blockEvents s.cfg s.ctx.slot s.ctx.keyIdx .encrypt)
        (sentBlocks (modeOfBit s.ctx.mode) v ps cs) (css ++ ending.lastChunks)).flatten s t := by
  induction cs generalizing ps css v s with
  | nil =>
    cases List.forall₂_nil_right_iff.1 hback
    cases ending with
    | allBack =>
      cases List.length_eq_zero_iff.1 hfits.symm
      exact ⟨s, rfl, hans, Advances.refl s⟩
    | failed ch e =>
      obtain ⟨hlt, hfails⟩ := hfits
      obtain ⟨p, ps, rfl⟩ := List.exists_cons_of_length_pos hlt
      obtain ⟨hp, -⟩ := List.forall_mem_cons.1 hps
      obtain ⟨t, ht, hleft, hadv⟩ := cryptBlock_failsBlock (dir := .encrypt) hready.key hready.max
        (chained_length (modeOfBit s.ctx.mode) hp hready.length) hfails (rest := rest)
        (by simpa [Ending.lastChunks] using hans)
      refine ⟨t, ?_, hleft, ?_⟩
      · rw [encBlocks, hready.encInput_eq, ht]
        rfl
      · simpa [sentBlocks_cons_nil, Ending.lastChunks] using hadv
  | cons c cs ih =>
    obtain ⟨ch, css, hc, hcs, rfl⟩ := List.forall₂_cons_right_iff.1 hback
    obtain ⟨p, ps, rfl⟩ := List.exists_cons_of_length_pos (Nat.zero_lt_of_lt hfits.le)
    obtain ⟨hp, hps⟩ := List.forall_mem_cons.1 hps
    obtain ⟨t, ht, hleft, hcv, hadv⟩ := cryptBlock_answersBlock (dir := .encrypt) hready.key hready.max
      (chained_length (modeOfBit s.ctx.mode) hp hready.length) hc
      (rest := (css ++ ending.lastChunks).flatten ++ rest) (by simpa using hans)
    have hstored := hadv.trans (encStore_advances t hc.1)
    have hctx : (encStore c t).ctx = s.ctx := hstored.ctx
    have hcfg : (encStore c t).cfg = s.cfg := hstored.cfg
    obtain ⟨u, hu, hrest, hmore⟩ := ih ((hready.of_keeps hadv.toKeepsBesideLoop hcv).encStore hc.1) hps
      (hcfg ▸ hcs) (hcfg ▸ Ending.fits_succ.1 hfits) hleft
    refine ⟨u, ?_, hrest, ?_⟩
    · rw [encBlocks, hready.encInput_eq, ht]
      simp only [hu]
      cases ending <;> rfl
    · rw [hctx, hcfg] at hmore
      simpa [sentBlocks_cons, Nat.add_comm] using hstored.trans hmore

/-! ## The loop of DECRYPT (R150 to R153) -/

/-- The blocks from `BLK` on that INBUF holds. -/
def InputBlocks (cs : List Bytes) (s : State) : Prop :=
  ∀ j c, cs[j]? = some c → readInbuf (16 * (s.blk + j)) 16 s = some c

theorem InputBlocks.head {c : Bytes} {cs : List Bytes} {s : State} (h : InputBlocks (c :: cs) s) :
    readInbuf (16 * s.blk) 16 s = some c :=
  h 0 c rfl

theorem InputBlocks.tail {c : Bytes} {cs : List Bytes} {s t : State} (h : InputBlocks (c :: cs) s)
    (hblk : t.blk = s.blk + 1) (hinbuf : t.inbuf = s.inbuf) : InputBlocks cs t := by
  intro j b hb
  have := h (j + 1) b hb
  rwa [readInbuf, hblk, hinbuf, Nat.add_assoc, Nat.add_comm 1]

/-- The loop sends the blocks of INBUF and joins the answers with the blocks before them, until the ending. -/
theorem decBlocks_ending {cs ds rest : List Bytes} {css : List (List Bytes)} {v got : Bytes} {s : State}
    {ending : Ending} (hready : ChainReady v s) (hin : InputBlocks cs s)
    (hback : List.Forall₂ (AnswersBlock s.cfg) css ds) (hfits : ending.Fits s.cfg ds.length cs.length)
    (hans : s.answers = (css ++ ending.lastChunks).flatten ++ rest) :
    ∃ t, decBlocks cs.length got s =
        ending.decResult (got ++ (plainBlocks (modeOfBit s.ctx.mode) v cs ds).flatten) t ∧ t.answers = rest ∧
      Advances ds.length (List.zipWith (blockEvents s.cfg s.ctx.slot s.ctx.keyIdx .decrypt) cs
        (css ++ ending.lastChunks)).flatten s t := by
  induction ds generalizing cs css v got s with
  | nil =>
    cases List.forall₂_nil_right_iff.1 hback
    cases ending with
    | allBack =>
      cases List.length_eq_zero_iff.1 hfits.symm
      exact ⟨s, by simp [decBlocks, Ending.decResult, plainBlocks], hans, Advances.refl s⟩
    | failed ch e =>
      obtain ⟨hlt, hfails⟩ := hfits
      obtain ⟨c, cs, rfl⟩ := List.exists_cons_of_length_pos hlt
      obtain ⟨t, ht, hleft, hadv⟩ := cryptBlock_failsBlock (dir := .decrypt) hready.key hready.max
        (readBytes_length hin.head) hfails (rest := rest) (by simpa [Ending.lastChunks] using hans)
      refine ⟨t, ?_, hleft, ?_⟩
      · simp only [List.length_cons, decBlocks, hin.head, ht]
        rfl
      · simpa [Ending.lastChunks] using hadv
  | cons d ds ih =>
    obtain ⟨ch, css, hd, hds, rfl⟩ := List.forall₂_cons_right_iff.1 hback
    obtain ⟨c, cs, rfl⟩ := List.exists_cons_of_length_pos (Nat.zero_lt_of_lt hfits.le)
    have hc : c.length = 16 := readBytes_length hin.head
    obtain ⟨t, ht, hleft, hcv, hadv⟩ := cryptBlock_answersBlock (dir := .decrypt) hready.key hready.max hc hd
      (rest := (css ++ ending.lastChunks).flatten ++ rest) (by simpa using hans)
    have hready' := hready.of_keeps hadv.toKeepsBesideLoop hcv
    have hstored := hadv.trans (decStore_advances c t hd.1)
    have hctx : (decStore c d t).ctx = s.ctx := hstored.ctx
    have hcfg : (decStore c d t).cfg = s.cfg := hstored.cfg
    obtain ⟨u, hu, hrest, hmore⟩ := ih (got := got ++ decOutput d t) (hready'.decStore d hc)
      (hin.tail hstored.blk hstored.inbuf) (hcfg ▸ hds) (hcfg ▸ Ending.fits_succ.1 hfits) hleft
    refine ⟨u, ?_, hrest, ?_⟩
    · simp only [List.length_cons, decBlocks, hin.head, ht, hu]
      rw [hctx, plainBlocks_cons, hready'.decOutput_eq, hadv.ctx, List.flatten_cons, List.append_assoc]
    · rw [hctx, hcfg] at hmore
      simpa [Nat.add_comm] using hstored.trans hmore

end Sys2Proof.Machine

/-! # ENCRYPT and DECRYPT with a scripted device: O28, O29

A cipher command is its checks, a block loop from the loaded state, and its completion. `CipherRun` says what the command has
left by the time it completes, whatever the loop came to; the completion then adds the results and wipes WORK and CV. -/

namespace Sys2Proof.Machine

/-! ## From the start to the completion -/

theorem usesWork_encrypt : usesWork (encode .encrypt) = true := rfl

theorem usesWork_decrypt : usesWork (encode .decrypt) = true := rfl

/-- A cipher command started in `s` stands in `t` after `n` blocks have come back, with the bus events `evs`. -/
structure CipherRun (i : Instr) (n : Nat) (evs : List BusEvent) (s t : State) : Prop where
  cipher : usesWork (encode i) = true
  frame : KeepsBesideScratch (startCommand (encode i) s) t
  trace : t.trace = s.trace ++ evs
  blk : t.blk = n
  txbuf : ∀ a, 24 ≤ a → t.txbuf.read a = s.txbuf.read a
  rxbuf : ∀ a, 19 ≤ a → t.rxbuf.read a = s.rxbuf.read a
  work : ∀ a, s.cfg.bufCap ≤ a → t.work.read a = s.work.read a

section
variable {i : Instr} {n : Nat} {evs : List BusEvent} {s t : State}

theorem cipherRun_loadWork {data : Bytes} (s : State) (hfit : data.length ≤ s.cfg.bufCap) :
    CipherRun .encrypt 0 [] s (loadWork data (startCommand (encode .encrypt) s)) where
  cipher := usesWork_encrypt
  frame := loadWork_frame data _
  trace := (List.append_nil _).symm
  blk := rfl
  txbuf _ _ := rfl
  rxbuf _ _ := rfl
  work a ha := read_writeBytes_above _ (by omega)

theorem cipherRun_loadIv (s : State) : CipherRun .decrypt 0 [] s (loadIv (startCommand (encode .decrypt) s)) where
  cipher := usesWork_decrypt
  frame := (loadIv_frame _).besideScratch
  trace := (List.append_nil _).symm
  blk := rfl
  txbuf _ _ := rfl
  rxbuf _ _ := rfl
  work _ _ := rfl

/-- A run goes on by a loop whose blocks lie in WORK. -/
theorem CipherRun.advance {m : Nat} {evs' : List BusEvent} {u : State} (h : CipherRun i n evs s t)
    (h' : Advances m evs' t u) (hfit : 16 * (n + m) ≤ s.cfg.bufCap) : CipherRun i (n + m) (evs ++ evs') s u where
  cipher := h.cipher
  frame := h.frame.trans h'.toKeepsBesideLoop.besideScratch
  trace := by rw [h'.trace, h.trace, List.append_assoc]
  blk := by rw [h'.blk, h.blk]
  txbuf a ha := (h'.txbuf a ha).trans (h.txbuf a ha)
  rxbuf a ha := (h'.rxbuf a ha).trans (h.rxbuf a ha)
  work a ha := (h'.work a (by rw [h'.blk, h.blk]; omega)).trans (h.work a ha)

theorem CipherRun.setWorklen (h : CipherRun i n evs s t) (k : Nat) : CipherRun i n evs s (setWorklen k t) :=
  { h with frame := h.frame.trans (setWorklen_frame k t) }

/-- A cipher command does not set the context. -/
theorem CipherRun.ne_ctxset (h : CipherRun i n evs s t) : i ≠ .ctxset := by
  rintro rfl
  exact absurd h.cipher (by rw [usesWork_ctxset]; decide)

theorem complete_releasing_ok (i : Instr) (out : Bytes) (t : State) :
    complete i (releasing (.ok out, t)) = finishCommand (releaseOut out t) := rfl

theorem complete_releasing_error (hi : i ≠ .ctxset) (e : Err) (t : State) :
    complete i (releasing (.error e, t)) = errorCompletion e t := by
  simp [complete, releasing, Except.map, hi]

/-- What the completion of a cipher command leaves, with a success or with an error. -/
theorem CipherRun.completed (h : CipherRun i n evs s t) (o : Except Err Bytes) :
    let u := complete i (releasing (o, t))
    u.trace = s.trace ++ evs ∧ u.answers = t.answers ∧ u.Wiped ∧ u.blk = n ∧ KeepsHostOwned s u ∧ KeepsContext s u ∧
      (∀ a, 24 ≤ a → u.txbuf.read a = s.txbuf.read a) ∧ (∀ a, 19 ≤ a → u.rxbuf.read a = s.rxbuf.read a) ∧
      (∀ a, s.cfg.bufCap + 16 ≤ a → u.work.read a = s.work.read a) := by
  have hcfg : t.cfg = s.cfg := h.frame.cfg
  have hcur : usesWork t.cur = true := by rw [h.frame.cur]; exact h.cipher
  have hops : t.ops = s.ops := h.frame.ops
  have hinbuf : t.inbuf = s.inbuf := h.frame.inbuf
  have hhostq : t.hostq = s.hostq := h.frame.hostq
  have hreads : t.reads = s.reads := h.frame.reads
  have hera : t.era = s.era := h.frame.era
  have hctx : t.ctx = s.ctx := h.frame.ctx
  have hvalid : t.ctxValid = s.ctxValid := h.frame.ctxValid
  have hwork (a : Nat) (ha : s.cfg.bufCap + 16 ≤ a) :
      (t.work.writeBytes 0 (rep 0 (s.cfg.bufCap + 16))).read a = s.work.read a :=
    (read_writeBytes_above _ (by rw [rep_length]; omega)).trans (h.work a (by omega))
  cases o <;> [rw [complete_releasing_error h.ne_ctxset]; rw [complete_releasing_ok]]
  all_goals
    refine ⟨by simp [h.trace], by simp, finishCommand_wiped hcur, by simp [h.blk], ?_⟩
    simpa [KeepsHostOwned, KeepsContext, hcfg, hcur, hops, hinbuf, hhostq, hreads, hera, hctx, hvalid] using
      ⟨h.txbuf, h.rxbuf, hwork⟩

theorem CipherRun.failedWith (h : CipherRun i n evs s t) (e : Err) :
    FailedWith i e s (complete i (releasing (.error e, t))) := by
  have hcur : t.cur = encode i := h.frame.cur
  have houtbuf : t.outbuf = s.outbuf := h.frame.outbuf
  rw [complete_releasing_error h.ne_ctxset]
  simp [FailedWith, Completed, hcur, houtbuf]

theorem CipherRun.succeeded (h : CipherRun i n evs s t) {out : Bytes} (hlen : out.length < 65536) :
    let u := complete i (releasing (.ok out, t))
    Succeeded i u ∧ u.crcout = 0 ∧ u.outlen.toNat = out.length ∧ Wrote s.outbuf u.outbuf 0 out := by
  have hcur : t.cur = encode i := h.frame.cur
  have houtbuf : t.outbuf = s.outbuf := h.frame.outbuf
  have herrf : t.errf = false := h.frame.errf
  have herr : t.err = 0 := h.frame.err
  have hdevstat : t.devstat = 0 := h.frame.devstat
  have hcrcout : t.crcout = 0 := h.frame.crcout
  simp [complete_releasing_ok, Succeeded, Completed, Wrote, read_writeBytes, hcur, houtbuf, herrf, herr, hdevstat, hcrcout,
    Nat.mod_eq_of_lt hlen]

/-- The results of a cipher command, whatever it came to. -/
theorem CipherRun.results (h : CipherRun i n evs s t) {o : Except Err Bytes}
    (hlen : ∀ out, o = .ok out → out.length < 65536) :
    let u := complete i (releasing (o, t))
    u.crcout = 0 ∧
      (∀ out, o = .ok out → Succeeded i u ∧ u.outlen.toNat = out.length ∧ Wrote s.outbuf u.outbuf 0 out) ∧
      (∀ e, o = .error e → FailedWith i e s u) := by
  cases o with
  | error e =>
    have hfailed := h.failedWith e
    have ⟨_, _, _, _, _, hcrcout, _⟩ := hfailed
    exact ⟨hcrcout, fun _ ho => (by cases ho), fun _ ho => by cases ho; exact hfailed⟩
  | ok out =>
    obtain ⟨hok, hcrcout, hresult⟩ := h.succeeded (hlen out rfl)
    exact ⟨hcrcout, fun _ ho => (by cases ho; exact ⟨hok, hresult⟩), fun _ ho => by cases ho⟩

end

/-! ## Blocks of a string (R49) -/

theorem length_of_mem_blocksOf {q : Nat} {data b : Bytes} (hlen : 16 * q ≤ data.length) (hb : b ∈ blocksOf q data) :
    b.length = 16 := by
  obtain ⟨j, hj, rfl⟩ := List.mem_map.1 hb
  have := List.mem_range.1 hj
  rw [List.length_take, List.length_drop]
  omega

theorem getElem?_blocksOf {q j : Nat} {data b : Bytes} (h : (blocksOf q data)[j]? = some b) :
    j < q ∧ b = (data.drop (16 * j)).take 16 := by
  obtain ⟨hj, rfl⟩ := List.getElem?_eq_some_iff.1 h
  simpa [blocksOf] using hj

/-- A part of what a range reads. -/
theorem readBytes_drop_take {m : Memory} {n k l : Nat} {bs : Bytes} (h : m.readBytes 0 n = some bs) (hfit : k + l ≤ n) :
    m.readBytes k l = some ((bs.drop k).take l) := by
  obtain ⟨hlen, hread⟩ := (readBytes_eq_some_iff _ _ _ _).1 h
  refine (readBytes_eq_some_iff _ _ _ _).2 ⟨by simp; omega, fun j hj => ?_⟩
  rw [List.getElem?_take_of_lt hj, List.getElem?_drop, ← hread (k + j) (by omega), Nat.zero_add]

/-- What INBUF holds is held block by block. -/
theorem inputBlocks_of_readInbuf {q n : Nat} {data : Bytes} {s : State} (hblk : s.blk = 0)
    (hread : readInbuf 0 n s = some data) (hq : 16 * q ≤ n) : InputBlocks (blocksOf q data) s := by
  intro j b hb
  obtain ⟨hj, rfl⟩ := getElem?_blocksOf hb
  rw [hblk, Nat.zero_add]
  exact readBytes_drop_take hread (by omega)

/-! ## The checks (R146) -/

theorem keyChecks_pass {slot key : Byte} (hslot : slot.toNat ≤ 15) (hkey : key.toNat ≤ 3) :
    firstError (keyChecks slot key) = none := by
  simp [keyChecks, firstError, Param.slotMax, Param.keyIdxMax, Nat.not_lt.2 hslot, Nat.not_lt.2 hkey]

/-- The context of a cipher command is valid, and its slot and key index pass their checks. -/
structure CipherContext (s : State) : Prop where
  legal : s.cfg.Legal
  valid : s.ctxValid = true
  slot : s.ctx.slot.toNat ≤ 15
  key : s.ctx.keyIdx.toNat ≤ 3

theorem CipherContext.keyChecks_pass {s : State} (h : CipherContext s) :
    firstError (keyChecks s.ctx.slot s.ctx.keyIdx) = none :=
  Machine.keyChecks_pass h.slot h.key

theorem CipherContext.maxPayload {s : State} (h : CipherContext s) : 16 ≤ s.cfg.maxPayload := by
  rw [h.legal.1]
  omega

/-- The operands of ENCRYPT pass every check, its input is `data` and its output size `total`. -/
structure EncryptReady (s : State) (data : Bytes) (total : Nat) : Prop extends CipherContext s where
  inlen : s.ops.inlen.toNat ≤ s.cfg.bufCap
  outcap : s.ops.outcap.toNat ≤ s.cfg.bufCap
  size : requiredOutputSize s.ops.inlen.toNat (paddingOfBit s.ctx.pad) = .ok total
  fits : total ≤ s.ops.outcap.toNat
  input : readInbuf 0 s.ops.inlen.toNat s = some data

/-- The operands of DECRYPT pass every check, and its input is `data`. -/
structure DecryptReady (s : State) (data : Bytes) : Prop extends CipherContext s where
  outcap : s.ops.outcap.toNat ≤ s.cfg.bufCap
  fits : s.ops.inlen.toNat ≤ s.ops.outcap.toNat
  whole : s.ops.inlen.toNat % 16 = 0
  input : readInbuf 0 s.ops.inlen.toNat s = some data

section
variable {s : State} {data : Bytes} {total : Nat}

theorem EncryptReady.validate_eq_none (h : EncryptReady s data total) : validate .encrypt s = none := by
  have hcap : capacityExceeded s = false := capacityExceeded_eq_false.2 ⟨h.inlen, h.outcap⟩
  have hout : outputTooSmallFor s.ops.outcap.toNat s.ops.inlen.toNat (paddingOfBit s.ctx.pad) = false := by
    simp [outputTooSmallFor, h.size, h.fits]
  simp [validate, validateEncrypt, firstError, hcap, h.valid, sizeFails_of_ok h.size, hout, h.keyChecks_pass]

theorem DecryptReady.validate_eq_none (h : DecryptReady s data) : validate .decrypt s = none := by
  have hfits := h.fits
  have houtcap := h.outcap
  have hcap : capacityExceeded s = false := capacityExceeded_eq_false.2 ⟨by omega, houtcap⟩
  simp [validate, validateDecrypt, firstError, hcap, h.valid, h.whole, Nat.not_lt.2 hfits, h.keyChecks_pass]

/-! ## ENCRYPT (R147) -/

/-- The padded input under the padding bit of the context. -/
theorem paddedInput_of_bit {b : BitVec 1} (h : requiredOutputSize data.length (paddingOfBit b) = .ok total) :
    paddedInput (paddingOfBit b) total data = if b = 0 then data else pad7 data := by
  by_cases hb : b = 0
  · rw [if_pos hb, hb]
    rfl
  · rw [paddingOfBit_of_ne_zero hb] at h ⊢
    rw [if_neg hb]
    cases h
    rfl

theorem EncryptReady.size_data (h : EncryptReady s data total) :
    requiredOutputSize data.length (paddingOfBit s.ctx.pad) = .ok total := by
  rw [readBytes_length h.input]
  exact h.size

theorem EncryptReady.padded_length (h : EncryptReady s data total) :
    (if s.ctx.pad = 0 then data else pad7 data).length = total := by
  rw [← paddedInput_of_bit h.size_data]
  exact paddedInput_length h.size_data

theorem EncryptReady.total_whole (h : EncryptReady s data total) : total % 16 = 0 :=
  (requiredOutputSize_ok h.size).2.1

theorem chainReady_loadWork (h : CipherContext s) (padded : Bytes) :
    ChainReady (bytesOfIv s.ctx.iv) (loadWork padded (startCommand (encode .encrypt) s)) where
  key := h.keyChecks_pass
  max := h.maxPayload
  length := bytesOfIv_length _
  cv hm := by
    have hm' : modeOfBit s.ctx.mode = .cbc := hm
    simp [hm']

/-- An attempt of a command that has just started decides its outcome. -/
theorem exec_of_attempt {i : Instr} {p : Attempt} (h : attempt i (startCommand (encode i) s) = some p) :
    exec i s = .next (complete i p) := by
  rw [exec_eq_attempt, h]
  rfl

/-- ENCRYPT, when its blocks are answered up to an ending, comes to what the loop does. -/
theorem attempt_encrypt_ending {css : List (List Bytes)} {cs rest : List Bytes} {ending : Ending}
    (h : EncryptReady s data total) (hback : List.Forall₂ (AnswersBlock s.cfg) css cs)
    (hfits : ending.Fits s.cfg cs.length (total / 16))
    (hans : s.answers = (css ++ ending.lastChunks).flatten ++ rest) :
    ∃ t, attempt .encrypt (startCommand (encode .encrypt) s) = some (releasing (ending.outcome cs.flatten, t)) ∧
      t.answers = rest ∧
      CipherRun .encrypt cs.length
        (List.zipWith (blockEvents s.cfg s.ctx.slot s.ctx.keyIdx .encrypt)
          (sentBlocks (modeOfBit s.ctx.mode) (bytesOfIv s.ctx.iv)
            (blocksOf (total / 16) (if s.ctx.pad = 0 then data else pad7 data)) cs)
          (css ++ ending.lastChunks)).flatten s t := by
  have hstart : readInbuf 0 s.ops.inlen.toNat (startCommand (encode .encrypt) s) = some data := h.input
  have hlen := h.padded_length
  have hcap := h.fits.trans h.outcap
  have hcount := hfits.le
  have hpadded := paddedInput_of_bit h.size_data
  generalize (if s.ctx.pad = 0 then data else pad7 data) = padded at *
  obtain ⟨t, ht, hleft, hadv⟩ := encBlocks_ending (ps := blocksOf (total / 16) padded)
    (chainReady_loadWork h.toCipherContext padded) (fun p hp => length_of_mem_blocksOf (by omega) hp) hback
    (by rw [blocksOf_length]; exact hfits) hans
  refine ⟨t, ?_, hleft, ?_⟩
  · rw [attempt_of_valid ((validate_startCommand _ _ s).trans h.validate_eq_none)]
    simp only [attemptChecked, startCommand_ops, startCommand_ctx, h.size, hstart, Option.map_some, encryptAttempt, hpadded,
      ht]
  · simpa using (cipherRun_loadWork (data := padded) s (by omega)).advance hadv (by omega)

/-- The bytes of the blocks that came back. -/
theorem flatten_length_of_blocks {bs : List Bytes} (h : ∀ b ∈ bs, b.length = 16) :
    bs.flatten.length = 16 * bs.length := by
  induction bs with
  | nil => rfl
  | cons b bs ih =>
    obtain ⟨hb, hbs⟩ := List.forall_mem_cons.1 h
    rw [List.flatten_cons, List.length_append, hb, ih hbs, List.length_cons]
    omega

theorem length_of_mem_answers {cfg : Config} {css : List (List Bytes)} {cs : List Bytes}
    (h : List.Forall₂ (AnswersBlock cfg) css cs) : ∀ c ∈ cs, c.length = 16 := by
  induction h with
  | nil => simp
  | cons hc _ ih => exact List.forall_mem_cons.2 ⟨hc.1, ih⟩

end

/-- Settles O28: the two parts are the two endings of the block loop. -/
theorem encryptChainsTheDevicesBlocks : Obligations.EncryptChainsTheDevicesBlocks := by
  intro s data total css cs rest hlegal hvalid hinlen houtcap hsize hfits hslot hkey hread hback sent kept
  have hready : EncryptReady s data total := ⟨⟨hlegal, hvalid, hslot, hkey⟩, hinlen, houtcap, hsize, hfits, hread⟩
  refine ⟨fun hcount hans => ?_, fun ch e hcount hfails hans => ?_⟩
  · obtain ⟨t, hattempt, hleft, hrun⟩ := attempt_encrypt_ending (ending := .allBack) (rest := rest) hready hback hcount
      (by simpa [Ending.lastChunks] using hans)
    rw [Ending.lastChunks, List.append_nil] at hrun
    have hwhole := hready.total_whole
    have hlen : cs.flatten.length = total := by
      rw [flatten_length_of_blocks (length_of_mem_answers hback)]
      omega
    have hcap := s.ops.outcap.isLt
    obtain ⟨hok, hcrcout, houtlen, houtbuf⟩ := hrun.succeeded (out := cs.flatten) (by omega)
    obtain ⟨htrace, hanswers, hkept⟩ := hrun.completed (.ok cs.flatten)
    exact ⟨_, exec_of_attempt hattempt, hok, hcrcout, houtlen.trans hlen, houtbuf, hlen, htrace, hanswers.trans hleft,
      hkept⟩
  · obtain ⟨t, hattempt, hleft, hrun⟩ := attempt_encrypt_ending (ending := .failed ch e) (rest := rest) hready hback
      ⟨hcount, hfails⟩ (by simpa [Ending.lastChunks] using hans)
    obtain ⟨htrace, hanswers, hkept⟩ := hrun.completed (.error e)
    exact ⟨_, exec_of_attempt hattempt, hrun.failedWith e, htrace, hanswers.trans hleft, hkept⟩

/-! ## DECRYPT (R151) -/

section
variable {s : State} {data : Bytes}

theorem chainReady_loadIv (h : CipherContext s) :
    ChainReady (bytesOfIv s.ctx.iv) (loadIv (startCommand (encode .decrypt) s)) where
  key := h.keyChecks_pass
  max := h.maxPayload
  length := bytesOfIv_length _
  cv hm := by
    have hm' : modeOfBit s.ctx.mode = .cbc := hm
    simp [hm']

/-- What follows the loop: the padding is removed when all blocks came back. -/
theorem decryptAttempt_decResult (p : Padding) (plain : Bytes) (t : State) (ending : Ending) :
    ∃ k, decryptAttempt p (ending.decResult plain t) =
      some (releasing ((ending.outcome plain).bind (removePadding p), setWorklen k t)) := by
  cases ending with
  | allBack => exact ⟨plain.length, rfl⟩
  | failed ch e => exact ⟨t.worklen, rfl⟩

/-- DECRYPT, when its blocks are answered up to an ending, comes to what the loop does and the padding leaves. -/
theorem attempt_decrypt_ending {css : List (List Bytes)} {ds rest : List Bytes} {ending : Ending}
    (h : DecryptReady s data) (hback : List.Forall₂ (AnswersBlock s.cfg) css ds)
    (hfits : ending.Fits s.cfg ds.length (s.ops.inlen.toNat / 16))
    (hans : s.answers = (css ++ ending.lastChunks).flatten ++ rest) :
    ∃ t, attempt .decrypt (startCommand (encode .decrypt) s) =
        some (releasing ((ending.outcome (plainBlocks (modeOfBit s.ctx.mode) (bytesOfIv s.ctx.iv)
          (blocksOf (s.ops.inlen.toNat / 16) data) ds).flatten).bind (removePadding (paddingOfBit s.ctx.pad)), t)) ∧
      t.answers = rest ∧
      CipherRun .decrypt ds.length
        (List.zipWith (blockEvents s.cfg s.ctx.slot s.ctx.keyIdx .decrypt) (blocksOf (s.ops.inlen.toNat / 16) data)
          (css ++ ending.lastChunks)).flatten s t := by
  have hcap := h.fits.trans h.outcap
  have hcount := hfits.le
  have hin : InputBlocks (blocksOf (s.ops.inlen.toNat / 16) data) (loadIv (startCommand (encode .decrypt) s)) :=
    inputBlocks_of_readInbuf rfl h.input (by omega)
  obtain ⟨t, ht, hleft, hadv⟩ := decBlocks_ending (got := []) (chainReady_loadIv h.toCipherContext) hin hback
    (by rw [blocksOf_length]; exact hfits) hans
  rw [blocksOf_length, List.nil_append] at ht
  obtain ⟨k, hk⟩ := decryptAttempt_decResult (paddingOfBit s.ctx.pad) (plainBlocks (modeOfBit s.ctx.mode)
    (bytesOfIv s.ctx.iv) (blocksOf (s.ops.inlen.toNat / 16) data) ds).flatten t ending
  refine ⟨setWorklen k t, ?_, hleft, ?_⟩
  · rw [attempt_of_valid ((validate_startCommand _ _ s).trans h.validate_eq_none), attemptChecked, ← hk]
    exact congrArg (decryptAttempt (paddingOfBit s.ctx.pad)) ht
  · simpa using ((cipherRun_loadIv s).advance hadv (by omega)).setWorklen k

theorem removePadding_of_bit (b : BitVec 1) (d : Bytes) :
    removePadding (paddingOfBit b) d = if b = 0 then .ok d else unpad7 d := by
  by_cases hb : b = 0
  · rw [if_pos hb, hb]
    rfl
  · rw [if_neg hb, paddingOfBit_of_ne_zero hb]
    rfl

theorem removePadding_error {p : Padding} {d : Bytes} {e : Err} (h : removePadding p d = .error e) :
    e = .paddingError := by
  cases p with
  | noPad => cases h
  | pkcs7 => exact unpad7_error h

end

/-- Settles O29: the two parts are the two endings of the block loop; when all blocks are back, the padding decides. -/
theorem decryptChainsTheDevicesBlocks : Obligations.DecryptChainsTheDevicesBlocks := by
  intro s data css ds rest hlegal hvalid hfits houtcap hwhole hslot hkey hread hback cs plain kept
  have hready : DecryptReady s data := ⟨⟨hlegal, hvalid, hslot, hkey⟩, houtcap, hfits, hwhole, hread⟩
  refine ⟨fun hcount hans => ?_, fun ch e hcount hfails hans => ?_⟩
  · obtain ⟨t, hattempt, hleft, hrun⟩ := attempt_decrypt_ending (ending := .allBack) (rest := rest) hready hback hcount
      (by simpa [Ending.lastChunks] using hans)
    rw [Ending.lastChunks, List.append_nil] at hrun
    change attempt .decrypt _ = some (releasing (removePadding (paddingOfBit s.ctx.pad) plain, t)) at hattempt
    have hbound (out : Bytes) (hout : removePadding (paddingOfBit s.ctx.pad) plain = .ok out) : out.length < 65536 :=
      (attempt_bytes_le_outcap (out := out) (hattempt.trans (by rw [hout]; rfl))).1.trans_lt s.ops.outcap.isLt
    obtain ⟨hcrcout, hsucceeds, hfails⟩ := hrun.results hbound
    obtain ⟨htrace, hanswers, hkept⟩ := hrun.completed (removePadding (paddingOfBit s.ctx.pad) plain)
    refine ⟨_, exec_of_attempt hattempt, hcrcout, ?_, ?_, htrace, hanswers.trans hleft, hkept⟩
    · rw [← removePadding_of_bit]
      exact hsucceeds
    · rw [← removePadding_of_bit]
      exact fun e he => removePadding_error he ▸ hfails e he
  · obtain ⟨t, hattempt, hleft, hrun⟩ := attempt_decrypt_ending (ending := .failed ch e) (rest := rest) hready hback
      ⟨hcount, hfails⟩ (by simpa [Ending.lastChunks] using hans)
    obtain ⟨htrace, hanswers, hkept⟩ := hrun.completed (.error e)
    exact ⟨_, exec_of_attempt hattempt, hrun.failedWith e, htrace, hanswers.trans hleft, hkept⟩

end Sys2Proof.Machine

/-! # The round trip: O30

With a device that answers every block whole, ENCRYPT releases the chain of its encryptions (O28), which DECRYPT cuts into the
same blocks and unchains (O29). What is left is that a string is the sum of its blocks, that unchaining undoes chaining, and
that what unpadding leaves of the padded plaintext is the plaintext. -/

namespace Sys2Proof.Machine

/-! ## A string and its blocks (R49) -/

theorem blocksOf_succ (q : Nat) (data : Bytes) : blocksOf (q + 1) data = data.take 16 :: blocksOf q (data.drop 16) := by
  simp only [blocksOf, List.range_succ_eq_map, List.map_cons, List.map_map, Nat.mul_zero, List.drop_zero, List.drop_drop]
  refine congrArg _ (List.map_congr_left fun j _ => ?_)
  rw [Function.comp_apply, Nat.mul_succ, Nat.add_comm]

theorem flatten_blocksOf {q : Nat} {data : Bytes} (h : data.length = 16 * q) : (blocksOf q data).flatten = data := by
  induction q generalizing data with
  | zero => exact (List.length_eq_zero_iff.1 h).symm
  | succ q ih => rw [blocksOf_succ, List.flatten_cons, ih (by rw [List.length_drop]; omega), List.take_append_drop]

theorem blocksOf_flatten {bs : List Bytes} (h : ∀ b ∈ bs, b.length = 16) : blocksOf bs.length bs.flatten = bs := by
  induction bs with
  | nil => rfl
  | cons b bs ih =>
    obtain ⟨hb, hbs⟩ := List.forall_mem_cons.1 h
    rw [List.length_cons, blocksOf_succ, List.flatten_cons, List.take_left' hb, List.drop_left' hb, ih hbs]

/-! ## The chain of encryptions (R148, R149) -/

theorem encChain_cons (enc : Bytes → Bytes) (m : Mode) (v p : Bytes) (ps : List Bytes) :
    encChain enc m v (p :: ps) = enc (chained m p v) :: encChain enc m (enc (chained m p v)) ps := by
  cases m <;> rfl

theorem encChain_length (enc : Bytes → Bytes) (m : Mode) (v : Bytes) (ps : List Bytes) :
    (encChain enc m v ps).length = ps.length := by
  induction ps generalizing v with
  | nil => rfl
  | cons p ps ih => rw [encChain_cons, List.length_cons, ih, List.length_cons]

section
variable {enc dec : Bytes → Bytes} {v : Bytes} {ps : List Bytes}

/-- Every block of the chain is the encryption of a block. -/
theorem mem_encChain (henc : ∀ x, x.length = 16 → (enc x).length = 16) (m : Mode) (hv : v.length = 16)
    (hps : ∀ p ∈ ps, p.length = 16) : ∀ c ∈ encChain enc m v ps, ∃ x, x.length = 16 ∧ c = enc x := by
  induction ps generalizing v with
  | nil => simp [encChain]
  | cons p ps ih =>
    obtain ⟨hp, hps⟩ := List.forall_mem_cons.1 hps
    have hx := chained_length m hp hv
    rw [encChain_cons]
    exact List.forall_mem_cons.2 ⟨⟨_, hx, rfl⟩, ih (henc _ hx) hps⟩

/-- Decrypting and unchaining a chain gives back its plaintext blocks (R152, R153, R156). -/
theorem plainBlocks_encChain (henc : ∀ x, x.length = 16 → (enc x).length = 16 ∧ dec (enc x) = x) (m : Mode)
    (hv : v.length = 16) (hps : ∀ p ∈ ps, p.length = 16) :
    plainBlocks m v (encChain enc m v ps) ((encChain enc m v ps).map dec) = ps := by
  induction ps generalizing v with
  | nil => rfl
  | cons p ps ih =>
    obtain ⟨hp, hps⟩ := List.forall_mem_cons.1 hps
    obtain ⟨hc, hdec⟩ := henc _ (chained_length m hp hv)
    rw [encChain_cons, List.map_cons, plainBlocks_cons, hdec, chained_chained m (hp.trans hv.symm), ih hc hps]

end

/-! ## A device that answers every block whole -/

theorem answersBlock_respFrame (cfg : Config) {c : Bytes} (hc : c.length = 16) : AnswersBlock cfg [respFrame cfg c] c := by
  simp [AnswersBlock, chunksFit, hc]

/-- Each block in one chunk. -/
theorem forall₂_answersBlock_respFrame (cfg : Config) {cs : List Bytes} (h : ∀ c ∈ cs, c.length = 16) :
    List.Forall₂ (AnswersBlock cfg) (cs.map fun c => [respFrame cfg c]) cs := by
  rw [List.forall₂_map_left_iff, List.forall₂_same]
  exact fun c hc => answersBlock_respFrame cfg (h c hc)

theorem flatten_map_singleton {α β : Type} (f : α → β) (l : List α) : (l.map fun a => [f a]).flatten = l.map f := by
  rw [← List.flatMap_def, ← List.map_eq_flatMap]

/-- What was written to the beginning of an array is read there. -/
theorem readBytes_of_wrote {m m' : Memory} {bs : Bytes} (h : Wrote m m' 0 bs) : m'.readBytes 0 bs.length = some bs := by
  refine (readBytes_eq_some_iff _ _ _ _).2 ⟨rfl, fun j hj => ?_⟩
  rw [h (0 + j), if_pos (by omega)]
  simp

/-- Removing the padding of the padded input gives back the input. -/
theorem unpad_padded (b : BitVec 1) (data : Bytes) :
    (if b = 0 then .ok (if b = 0 then data else pad7 data) else unpad7 (if b = 0 then data else pad7 data)) =
      (Except.ok data : Except Err Bytes) := by
  by_cases hb : b = 0
  · simp only [hb, if_true]
  · simp only [hb, if_false, unpadInvertsPad data]

section
variable {s : State} {data : Bytes} {total : Nat} {cs ds : List Bytes}

/-- ENCRYPT with a device that answers `cs` releases them. -/
theorem exec_encrypt_of_respFrames (h : EncryptReady s data total) (hcs : ∀ c ∈ cs, c.length = 16)
    (hcount : cs.length = total / 16) (hans : s.answers = cs.map (respFrame s.cfg)) :
    ∃ t, exec .encrypt s = .next t ∧ Succeeded .encrypt t ∧ t.outlen.toNat = total ∧
      t.outbuf.readBytes 0 total = some cs.flatten := by
  obtain ⟨hcomplete, -⟩ := encryptChainsTheDevicesBlocks s data total _ cs [] h.legal h.valid h.inlen h.outcap h.size h.fits
    h.slot h.key h.input (forall₂_answersBlock_respFrame s.cfg hcs)
  obtain ⟨t, hexec, hok, -, houtlen, houtbuf, hlen, -⟩ :=
    hcomplete hcount (by rw [flatten_map_singleton, List.append_nil, hans])
  exact ⟨t, hexec, hok, houtlen, hlen ▸ readBytes_of_wrote houtbuf⟩

/-- DECRYPT of the blocks `cs` with a device that answers `ds` releases what unpadding leaves of the plaintext. -/
theorem exec_decrypt_of_respFrames {out : Bytes} (h : DecryptReady s cs.flatten) (hcs : ∀ c ∈ cs, c.length = 16)
    (hds : ∀ d ∈ ds, d.length = 16) (hlen : ds.length = cs.length) (hans : s.answers = ds.map (respFrame s.cfg))
    (hout : (if s.ctx.pad = 0 then .ok (plainBlocks (modeOfBit s.ctx.mode) (bytesOfIv s.ctx.iv) cs ds).flatten
      else unpad7 (plainBlocks (modeOfBit s.ctx.mode) (bytesOfIv s.ctx.iv) cs ds).flatten) = Except.ok out) :
    ∃ u, exec .decrypt s = .next u ∧ Succeeded .decrypt u ∧ u.outlen.toNat = out.length ∧
      u.outbuf.readBytes 0 out.length = some out := by
  have hcount : s.ops.inlen.toNat / 16 = cs.length := by
    rw [← readBytes_length h.input, flatten_length_of_blocks hcs]
    omega
  have hcut : blocksOf (s.ops.inlen.toNat / 16) cs.flatten = cs := hcount ▸ blocksOf_flatten hcs
  obtain ⟨hcomplete, -⟩ := decryptChainsTheDevicesBlocks s cs.flatten _ ds [] h.legal h.valid h.fits h.outcap h.whole h.slot
    h.key h.input (forall₂_answersBlock_respFrame s.cfg hds)
  rw [hcut] at hcomplete
  obtain ⟨u, hexec, -, hsucceeds, -⟩ :=
    hcomplete (hlen.trans hcount.symm) (by rw [flatten_map_singleton, List.append_nil, hans])
  obtain ⟨hok, houtlen, houtbuf⟩ := hsucceeds out hout
  exact ⟨u, hexec, hok, houtlen, readBytes_of_wrote houtbuf⟩

end

/-- Settles O30: ENCRYPT releases the chain, DECRYPT unchains it, and unpadding leaves the plaintext. -/
theorem decryptInvertsEncrypt : Obligations.DecryptInvertsEncrypt := by
  intro enc dec s data total henc hlegal hvalid hinlen houtcap hsize hfits hslot hkey hread hans
  have hready : EncryptReady s data total := ⟨⟨hlegal, hvalid, hslot, hkey⟩, hinlen, houtcap, hsize, hfits, hread⟩
  have hwhole := hready.total_whole
  have hpadded := hready.padded_length
  have hunpad := unpad_padded s.ctx.pad data
  generalize (if s.ctx.pad = 0 then data else pad7 data) = padded at *
  have hiv := bytesOfIv_length s.ctx.iv
  have hps : ∀ p ∈ blocksOf (total / 16) padded, p.length = 16 := fun p => length_of_mem_blocksOf (by omega)
  have hmem := mem_encChain (fun x hx => (henc x hx).1) (modeOfBit s.ctx.mode) hiv hps
  have hplain := plainBlocks_encChain henc (modeOfBit s.ctx.mode) hiv hps
  have hcount := encChain_length enc (modeOfBit s.ctx.mode) (bytesOfIv s.ctx.iv) (blocksOf (total / 16) padded)
  rw [blocksOf_length] at hcount
  generalize encChain enc (modeOfBit s.ctx.mode) (bytesOfIv s.ctx.iv) (blocksOf (total / 16) padded) = cs at *
  have hcs : ∀ c ∈ cs, c.length = 16 := fun c hc => by
    obtain ⟨x, hx, rfl⟩ := hmem c hc
    exact (henc x hx).1
  have hds : ∀ d ∈ cs.map dec, d.length = 16 := List.forall_mem_map.2 fun c hc => by
    obtain ⟨x, hx, rfl⟩ := hmem c hc
    rw [(henc x hx).2, hx]
  obtain ⟨t, hexec, hok, houtlen, houtbuf⟩ := exec_encrypt_of_respFrames hready hcs hcount hans
  refine ⟨t, cs.flatten, hexec, hok, houtlen, houtbuf, ?_⟩
  intro s' hcfg' hctx' hvalid' hinlen' hfits' houtcap' hread' hans'
  have hn : s'.ops.inlen.toNat = total := hinlen' ▸ houtlen
  have hready' : DecryptReady s' cs.flatten :=
    { legal := hcfg' ▸ hlegal, valid := hvalid', slot := hctx' ▸ hslot, key := hctx' ▸ hkey, outcap := hcfg' ▸ houtcap'
      fits := hn ▸ hfits', whole := hn ▸ hwhole, input := hn ▸ hread' }
  have hans'' : s'.answers = (cs.map dec).map (respFrame s'.cfg) := by
    rw [hans', ← hcount, blocksOf_flatten hcs, hcfg', List.map_map]
    rfl
  obtain ⟨u, hexec', hok', houtlen', houtbuf'⟩ := exec_decrypt_of_respFrames (out := data) hready' hcs hds
    (List.length_map _) hans'' (by rw [hctx', hplain, flatten_blocksOf (by omega)]; exact hunpad)
  rw [readBytes_length hread] at houtlen' houtbuf'
  exact ⟨u, hexec', hok', BitVec.eq_of_toNat_eq houtlen', houtbuf'⟩

end Sys2Proof.Machine

/-! # What every command comes to: O36, O41

An attempt leaves the results of the start as they are, so that its completion is a success when it releases something and
an error completion when it does not. That every command completes is then a matter of the bytes it reads. -/

namespace Sys2Proof.Machine

/-! ## The two completions (R166, R176) -/

/-- Every completion of a command that was in the latch leaves what R166 says. -/
theorem complete_completed {i : Instr} {p : Attempt} (hcur : p.2.cur = encode i) : Completed i (complete i p) := by
  obtain ⟨u, hu, hucur⟩ := complete_eq_finishCommand i p
  rw [hu]
  exact ⟨finishCommand_busy u, finishCommand_done u, finishCommand_seq u, by rw [finishCommand_cur, hucur, hcur],
    finishCommand_pend u, finishCommand_plainLen u⟩

/-- A release reports no error. -/
theorem Release.apply_keepsFlags (r : Release) (s : State) : KeepsFlags s (r.apply s) := by
  cases r <;> exact ⟨rfl, rfl, rfl, rfl, rfl⟩

/-- The completion of what was released is a success. -/
theorem complete_ok_succeeded {i : Instr} {s t : State} {r : Release}
    (hp : Attempt.Sound i (startCommand (encode i) s) (.ok r, t)) : Succeeded i (complete i (.ok r, t)) := by
  have hkeeps := r.apply_keepsFlags t
  refine ⟨complete_completed hp.frame.cur, ?_, ?_, ?_⟩
  · exact (finishCommand_errf _).trans (hkeeps.errf.trans hp.frame.errf)
  · exact (finishCommand_err _).trans (hkeeps.err.trans hp.frame.err)
  · exact (finishCommand_devstat _).trans (hkeeps.devstat.trans hp.frame.devstat)

/-- The completion of an error is an error completion (R176). -/
theorem complete_error_failedWith {i : Instr} {s t : State} {e : Err}
    (hp : Attempt.Sound i (startCommand (encode i) s) (.error e, t)) : FailedWith i e s (complete i (.error e, t)) := by
  refine ⟨complete_completed hp.frame.cur, errorCompletion_errf e _, errorCompletion_err e _,
    errorCompletion_devstat e _, errorCompletion_outlen e _, errorCompletion_crcout e _, ?_⟩
  refine (errorCompletion_outbuf e _).trans (Eq.trans ?_ hp.frame.outbuf)
  split <;> rfl

/-- Every command that completes has succeeded or failed. -/
theorem exec_succeeded_or_failedWith {i : Instr} {s t : State} (h : exec i s = .next t) :
    Succeeded i t ∨ ∃ e, FailedWith i e s t := by
  obtain ⟨⟨e | r, u⟩, hp, rfl⟩ := exec_next_sound h
  · exact .inr ⟨e, complete_error_failedWith hp⟩
  · exact .inl (complete_ok_succeeded hp)

/-- No command that fails writes the context registers (R16, R142). -/
theorem exec_failed_keeps_ctx {i : Instr} {s t : State} (h : exec i s = .next t) (herr : t.errf = true) :
    t.ctx = s.ctx := by
  obtain ⟨hother, hctxset⟩ := onlyCtxsetWritesTheContext i s t h
  by_cases hi : i = .ctxset
  · exact (hctxset hi herr).1
  · exact (hother hi).1

/-- Settles O36: the flags agree after every completion, and `ERRF` tells which of the two it was. -/
theorem everyCompletionIsUniform : Obligations.EveryCompletionIsUniform := by
  intro i s t h
  obtain ⟨-, -, herrf, hcode, hdev, -⟩ := exec_flagsAgree h
  rcases exec_succeeded_or_failedWith h with ⟨hdone, hok, -, -⟩ | ⟨e, hdone, -, -, -, houtlen, hcrcout, houtbuf⟩
  · exact ⟨hdone, herrf, hcode, hdev, fun herr => by simp [hok] at herr⟩
  · exact ⟨hdone, herrf, hcode, hdev, fun herr => ⟨houtlen, hcrcout, houtbuf, exec_failed_keeps_ctx h herr⟩⟩

/-! ## The bytes a command reads (R26, R203) -/

/-- The block loop of DECRYPT is not refused while its blocks have been written. -/
theorem decBlocks_ne_unwritten {n : Nat} {got : Bytes} {s : State}
    (hread : ∀ j, j < n → (readInbuf (16 * (s.blk + j)) 16 s).isSome = true) : decBlocks n got s ≠ .unwritten := by
  induction n generalizing got s with
  | zero => simp [decBlocks]
  | succ n ih =>
    obtain ⟨c, hc⟩ := Option.isSome_iff_exists.1 (hread 0 n.succ_pos)
    rw [Nat.add_zero] at hc
    have hf := cryptBlock_frame c s.ctx.slot s.ctx.keyIdx .decrypt s
    simp only [decBlocks, hc]
    generalize cryptBlock c s.ctx.slot s.ctx.keyIdx .decrypt s = q at hf
    obtain ⟨e | d, t⟩ := q
    · simp
    · refine ih fun j hj => ?_
      have hj' := hread (j + 1) (Nat.succ_lt_succ hj)
      rw [Nat.add_comm j, ← Nat.add_assoc] at hj'
      rwa [readInbuf, decStore_inbuf, decStore_blk, hf.inbuf, hf.blk]

/-- CRYPTBLOCK passes its checks with an input of one block only (R134). -/
theorem validateCryptblock_inlen {s : State} (h : validateCryptblock s = none) : s.ops.inlen.toNat = 16 := by
  have hcheck := firstError_eq_none_iff.1 h
  have hlo := hcheck (decide (s.ops.inlen.toNat < 16), .inputTooSmall) (by simp)
  have hhi := hcheck (decide (16 < s.ops.inlen.toNat), .invalidInputLength) (by simp)
  simp only [decide_eq_false_iff_not] at hlo hhi
  omega

theorem decryptAttempt_isSome {p : Padding} {r : DecResult} (h : r ≠ .unwritten) : (decryptAttempt p r).isSome = true := by
  cases r
  case unwritten => exact absurd rfl h
  all_goals rfl

/-- A command whose checks pass comes to an attempt when the bytes counted by `INLEN` have been written. -/
theorem attemptChecked_isSome_of_read {i : Instr} {s : State} {data : Bytes} (hv : validate i s = none) (hblk : s.blk = 0)
    (hread : readInbuf 0 s.ops.inlen.toNat s = some data) : (attemptChecked i s).isSome = true := by
  cases i
  case crc16 | build | parse | send => simp [attemptChecked, hread]
  case receive | reqsize | ctxset => rfl
  case cryptblock =>
    rw [validateCryptblock_inlen hv] at hread
    simp [attemptChecked, hread]
  case encrypt =>
    simp only [attemptChecked]
    cases requiredOutputSize s.ops.inlen.toNat (paddingOfBit s.ctx.pad) with
    | error e => rfl
    | ok total => simp [hread]
  case decrypt =>
    refine decryptAttempt_isSome (decBlocks_ne_unwritten fun j hj => ?_)
    refine readBytes_isSome_of_subrange (Option.isSome_iff_exists.2 ⟨data, hread⟩) (Nat.zero_le _) ?_
    have hstart : (loadIv s).blk = 0 := hblk
    omega

/-- RECEIVE, REQSIZE and CTXSET read no byte of INBUF. -/
theorem attemptChecked_isSome_of_no_input {i : Instr} {s : State} (hi : i = .receive ∨ i = .reqsize ∨ i = .ctxset) :
    (attemptChecked i s).isSome = true := by
  rcases hi with rfl | rfl | rfl <;> rfl

/-- A command comes to an attempt at once when a check fails, else when it comes to one with its checks passed. -/
theorem attempt_isSome {i : Instr} {s : State} (h : validate i s = none → (attemptChecked i s).isSome = true) :
    (attempt i s).isSome = true := by
  cases hv : validate i s with
  | some e => rw [attempt_of_invalid hv]; rfl
  | none => rw [attempt_of_valid hv]; exact h hv

/-- Settles O41: a command with readable input comes to an attempt, and every attempt completes. -/
theorem everyCommandCompletes : Obligations.EveryCommandCompletes := by
  intro i s hinput
  have hattempt : (attempt i (startCommand (encode i) s)).isSome = true := attempt_isSome fun hv => by
    rcases hinput with hi | hi | hi | ⟨data, hread⟩
    · exact attemptChecked_isSome_of_no_input (.inl hi)
    · exact attemptChecked_isSome_of_no_input (.inr (.inl hi))
    · exact attemptChecked_isSome_of_no_input (.inr (.inr hi))
    · exact attemptChecked_isSome_of_read hv rfl (data := data) hread
  obtain ⟨p, hp⟩ := Option.isSome_iff_exists.1 hattempt
  have hexec := exec_of_attempt hp
  exact ⟨complete i p, hexec, exec_succeeded_or_failedWith hexec⟩

end Sys2Proof.Machine

/-! # How many bus events a command makes: O38

A block makes at most 24 events: a wake, a write and a wait, at most 20 chunk requests (R116), and an idle transition. The
block loops make no other, and no other command makes more than one block does. -/

namespace Sys2Proof.Machine

/-! ## The operations -/

/-- From `s` to `t` at most `n` bus events are appended. -/
def AppendsAtMost (n : Nat) (s t : State) : Prop := ∃ evs, t.trace = s.trace ++ evs ∧ evs.length ≤ n

theorem AppendsAtMost.of_trace_eq {s t : State} (n : Nat) (h : t.trace = s.trace) : AppendsAtMost n s t :=
  ⟨[], by rw [h, List.append_nil], Nat.zero_le n⟩

theorem AppendsAtMost.trans {n m : Nat} {s t u : State} (h : AppendsAtMost n s t) (h' : AppendsAtMost m t u) :
    AppendsAtMost (n + m) s u := by
  obtain ⟨evs, htrace, hlen⟩ := h
  obtain ⟨evs', htrace', hlen'⟩ := h'
  exact ⟨evs ++ evs', by rw [htrace', htrace, List.append_assoc], by rw [List.length_append]; omega⟩

theorem AppendsAtMost.mono {n m : Nat} {s t : State} (h : AppendsAtMost n s t) (hle : n ≤ m) : AppendsAtMost m s t := by
  obtain ⟨evs, htrace, hlen⟩ := h
  exact ⟨evs, htrace, hlen.trans hle⟩

/-- A receive makes one event for every chunk. -/
theorem readEvents_length (e : Nat) (cs : List Bytes) : (readEvents e cs).length = cs.length := by
  induction cs generalizing e with
  | nil => rfl
  | cons c cs ih => simp [readEvents, ih]

/-- A send makes a wake and a write (R110). -/
theorem send_appendsAtMost (op p1 : Byte) (p2 : Word16) (payload : Bytes) (s : State) :
    AppendsAtMost 2 s (send op p1 p2 payload s).2 := by
  rcases send_spec op p1 p2 payload s with ⟨_, h⟩ | ⟨_, h⟩ <;> rw [h]
  · exact .of_trace_eq 2 rfl
  · exact ⟨[.wake, .write (commandFrame s.cfg op p1 p2 payload)], by simp [storeFrame], le_rfl⟩

/-- A receive makes at most 20 requests and an idle transition (R116, R118). -/
theorem receive_appendsAtMost (e : Nat) (s : State) : AppendsAtMost 21 s (receive e s).2 := by
  obtain ⟨cs, hcount, -, -, -, -, htrace, -⟩ := collect_spec e s
  refine ⟨readEvents e cs ++ [.idle], ?_, by simpa [readEvents_length] using Nat.lt_succ_of_le hcount⟩
  rw [receive, receiveEffect_trace, htrace, List.append_assoc]

/-- A block makes at most 24 events (R132). -/
theorem cryptBlock_appendsAtMost (x : Bytes) (slot key : Byte) (dir : Direction) (s : State) :
    AppendsAtMost 24 s (cryptBlock x slot key dir s).2 := by
  rcases cryptBlock_spec x slot key dir s with ⟨h, -⟩ | ⟨-, cs, hcount, -, -, -, htrace⟩
  · rw [h]
    exact .of_trace_eq 24 rfl
  · refine ⟨[.wake, .write (cryptFrame s.cfg slot key dir x), .execWait] ++ readEvents 19 cs ++ [.idle], ?_, ?_⟩
    · simpa using htrace
    · simp only [List.length_append, readEvents_length, List.length_cons, List.length_nil]
      omega

theorem encBlocks_appendsAtMost (bs : List Bytes) (s : State) :
    AppendsAtMost (bs.length * 24) s (encBlocks bs s).2 := by
  induction bs generalizing s with
  | nil => exact .of_trace_eq _ rfl
  | cons b bs ih =>
    have hblock := cryptBlock_appendsAtMost (encInput b s) s.ctx.slot s.ctx.keyIdx .encrypt s
    have hsplit : (b :: bs).length * 24 = 24 + bs.length * 24 := by rw [List.length_cons]; omega
    rw [hsplit]
    unfold encBlocks
    generalize cryptBlock (encInput b s) s.ctx.slot s.ctx.keyIdx .encrypt s = q at hblock
    obtain ⟨e | c, t⟩ := q
    · exact hblock.mono (Nat.le_add_right _ _)
    · have hrest := hblock.trans (ih (encStore c t))
      simp only
      generalize encBlocks bs (encStore c t) = q at hrest
      obtain ⟨e | cs, u⟩ := q <;> exact hrest

theorem decBlocks_appendsAtMost (n : Nat) (got : Bytes) (s : State) :
    match decBlocks n got s with
    | .done _ t | .failed _ t => AppendsAtMost (n * 24) s t
    | .unwritten => True := by
  induction n generalizing got s with
  | zero => exact AppendsAtMost.of_trace_eq _ rfl
  | succ n ih =>
    have hsplit : (n + 1) * 24 = 24 + n * 24 := by omega
    rw [hsplit]
    unfold decBlocks
    cases readInbuf (16 * s.blk) 16 s with
    | none => trivial
    | some c =>
      have hblock := cryptBlock_appendsAtMost c s.ctx.slot s.ctx.keyIdx .decrypt s
      simp only
      generalize cryptBlock c s.ctx.slot s.ctx.keyIdx .decrypt s = q at hblock
      obtain ⟨e | d, u⟩ := q
      · exact hblock.mono (Nat.le_add_right _ _)
      · have hrest := ih (got ++ decOutput d u) (decStore c d u)
        simp only
        generalize decBlocks n _ _ = r at hrest
        cases r with
        | unwritten => trivial
        | done p t => exact hblock.trans hrest
        | failed e t => exact hblock.trans hrest

/-! ## The commands -/

/-- The output of ENCRYPT, and so the number of its blocks, is bounded by `BUF_CAP` (R140, R173). -/
theorem encryptAttempt_appendsAtMost {s : State} {total : Nat} (data : Bytes) (hfits : total ≤ s.cfg.bufCap) :
    AppendsAtMost (s.cfg.bufCap / 16 * 24) s (encryptAttempt total data s).2 := by
  have hloop := encBlocks_appendsAtMost
    (blocksOf (total / 16) (paddedInput (paddingOfBit s.ctx.pad) total data))
    (loadWork (paddedInput (paddingOfBit s.ctx.pad) total data) s)
  rw [blocksOf_length] at hloop
  exact hloop.mono (Nat.mul_le_mul_right 24 (Nat.div_le_div_right hfits))

/-- The number of the blocks of DECRYPT is bounded by `BUF_CAP` (R173). -/
theorem decryptAttempt_appendsAtMost {s : State} {pad : Padding} {p : Attempt} (hfits : s.ops.inlen.toNat ≤ s.cfg.bufCap)
    (h : decryptAttempt pad (decBlocks (s.ops.inlen.toNat / 16) [] (loadIv s)) = some p) :
    AppendsAtMost (s.cfg.bufCap / 16 * 24) s p.2 := by
  have hloop := decBlocks_appendsAtMost (s.ops.inlen.toNat / 16) [] (loadIv s)
  have hle : s.ops.inlen.toNat / 16 * 24 ≤ s.cfg.bufCap / 16 * 24 :=
    Nat.mul_le_mul_right 24 (Nat.div_le_div_right hfits)
  cases hd : decBlocks (s.ops.inlen.toNat / 16) [] (loadIv s) with
  | unwritten => simp [hd, decryptAttempt] at h
  | failed e t =>
    simp only [hd, decryptAttempt, Option.some.injEq] at h hloop
    exact h ▸ hloop.mono hle
  | done d t =>
    simp only [hd, decryptAttempt, Option.some.injEq] at h hloop
    exact h ▸ hloop.mono hle

/-- A command whose checks pass makes at most the events of `BUF_CAP / 16` blocks. -/
theorem attemptChecked_appendsAtMost {i : Instr} {s : State} {p : Attempt} (hv : validate i s = none)
    (hcap : 16 ≤ s.cfg.bufCap) (h : attemptChecked i s = some p) :
    AppendsAtMost (s.cfg.bufCap / 16 * 24) s p.2 := by
  have hone : 24 ≤ s.cfg.bufCap / 16 * 24 := by omega
  cases i
  case crc16 =>
    obtain ⟨data, -, rfl⟩ := Option.map_eq_some_iff.1 h
    exact .of_trace_eq _ rfl
  case build =>
    obtain ⟨payload, -, rfl⟩ := Option.map_eq_some_iff.1 h
    exact .of_trace_eq _ (buildCommandFrame_trace _ _ _ payload s)
  case parse =>
    obtain ⟨raw, -, rfl⟩ := Option.map_eq_some_iff.1 h
    exact .of_trace_eq _ (parseEffect_trace raw (rxLoad raw s))
  case send =>
    obtain ⟨payload, -, rfl⟩ := Option.map_eq_some_iff.1 h
    exact (send_appendsAtMost _ _ _ payload s).mono (by omega)
  case receive =>
    cases h
    exact (receive_appendsAtMost _ s).mono (by omega)
  case cryptblock =>
    obtain ⟨x, -, rfl⟩ := Option.map_eq_some_iff.1 h
    exact (cryptBlock_appendsAtMost x _ _ _ s).mono hone
  case reqsize => cases h; exact .of_trace_eq _ rfl
  case ctxset => cases h; exact .of_trace_eq _ rfl
  case encrypt =>
    simp only [attemptChecked] at h
    cases hq : requiredOutputSize s.ops.inlen.toNat (paddingOfBit s.ctx.pad) with
    | error e =>
      simp only [hq, Option.some.injEq] at h
      exact h ▸ .of_trace_eq _ rfl
    | ok total =>
      simp only [hq] at h
      obtain ⟨data, -, rfl⟩ := Option.map_eq_some_iff.1 h
      obtain ⟨hout, htotal⟩ := validateEncrypt_bounds hv hq
      exact encryptAttempt_appendsAtMost data (htotal.trans hout)
  case decrypt =>
    obtain ⟨hout, hin⟩ := validateDecrypt_bounds hv
    exact decryptAttempt_appendsAtMost (hin.trans hout) h

theorem attempt_appendsAtMost {i : Instr} {s : State} {p : Attempt} (hcap : 16 ≤ s.cfg.bufCap)
    (h : attempt i s = some p) : AppendsAtMost (s.cfg.bufCap / 16 * 24) s p.2 := by
  cases hv : validate i s with
  | some e =>
    rw [attempt_of_invalid hv] at h
    cases h
    exact .of_trace_eq _ rfl
  | none => exact attemptChecked_appendsAtMost hv hcap (attempt_of_valid hv ▸ h)

/-- Settles O38: neither the start of a command nor its completion uses the bus. -/
theorem busEventsAreBounded : Obligations.BusEventsAreBounded := by
  rintro i s t ⟨-, -, -, hcap, -⟩ h
  obtain ⟨p, hp, rfl⟩ := exec_next h
  rw [complete_trace]
  exact attempt_appendsAtMost (s := startCommand (encode i) s) (le_trans (by decide) hcap) hp

end Sys2Proof.Machine

/-! # Runs of the sequencer, and the commands without a receive: O42

`exec` is the completion of an attempt (`exec_eq_attempt`). The sequencer holds the state of the attempt with its own `SEQ`,
`seqGoto q s`, and goes on from there: each lemma takes it from one state of R161 to the next, or from the outcome of the
attempt through `S_RELEASE` or `S_FAIL` and `S_FINISH` to its completion. -/

namespace Sys2Proof.Machine

/-! ## Runs -/

/-- Some number of transitions from `s` gives the outcome `o`. -/
def Reaches (s : State) (o : Host.Outcome State Fault Refusal) : Prop := ∃ n, seqRun n s = o

/-- After a transition with the first outcome, some number of further ones gives the second. -/
def LeadsTo : Host.Outcome State Fault Refusal → Host.Outcome State Fault Refusal → Prop
  | .next t, o => Reaches t o
  | .fault f, o => .fault f = o
  | .refused r, o => .refused r = o

section
variable {s t : State} {o : Host.Outcome State Fault Refusal}

theorem Reaches.refl (s : State) : Reaches s (.next s) := ⟨0, rfl⟩

/-- A run begins with one transition. -/
theorem Reaches.of_step (h : LeadsTo (seqStep s) o) : Reaches s o := by
  cases hstep : seqStep s <;> rw [hstep] at h
  case next t =>
    obtain ⟨n, hn⟩ := h
    exact ⟨n + 1, by rw [seqRun, hstep]; exact hn⟩
  case fault f => exact ⟨1, by rw [seqRun, hstep]; exact h⟩
  case refused r => exact ⟨1, by rw [seqRun, hstep]; exact h⟩

theorem Reaches.of_next (h : seqStep s = .next t) (ht : Reaches t o) : Reaches s o :=
  .of_step (h ▸ ht)

/-- Runs compose. -/
theorem Reaches.trans (h : Reaches s (.next t)) (ht : Reaches t o) : Reaches s o := by
  obtain ⟨n, hn⟩ := h
  induction n generalizing s with
  | zero => cases hn; exact ht
  | succ n ih =>
    rw [seqRun] at hn
    cases hstep : seqStep s with
    | next u => exact .of_next hstep (ih (by rwa [hstep] at hn))
    | fault f => simp [hstep] at hn
    | refused r => simp [hstep] at hn

end

/-- A transition that reads INBUF is refused exactly when the attempt is. -/
theorem LeadsTo.readsInput {i : Instr} {bytes : Option Bytes} {k : Bytes → Host.Outcome State Fault Refusal}
    {f : Bytes → Attempt} (h : ∀ bs, bytes = some bs → LeadsTo (k bs) (outcomeOf i (some (f bs)))) :
    LeadsTo (withBytes .inbufUnwritten bytes k) (outcomeOf i (bytes.map f)) := by
  cases bytes with
  | none => rfl
  | some bs => exact h bs rfl

/-! ## The ends of a run -/

theorem finishCommand_seqGoto (q : SeqState) (s : State) : finishCommand (seqGoto q s) = finishCommand s := by
  have hcur : (seqGoto q s).cur = s.cur := rfl
  rw [finishCommand, finishCommand, hcur]
  split <;> rfl

section
variable {i : Instr} {s : State}

/-- From `S_FAIL` the sequencer comes to the error completion (R176). -/
theorem reaches_errorCompletion (e : Err) (s : State) : Reaches (seqFail e s) (.next (errorCompletion e s)) := by
  have hfail : seqStep (seqFail e s) = .next (seqGoto .sFinish (writeError e (seqFail e s))) := rfl
  have hfinish : seqStep (seqGoto .sFinish (writeError e (seqFail e s))) = .next (errorCompletion e s) :=
    congrArg Host.Outcome.next (finishCommand_after_seqFail e s)
  exact .of_next hfail (.of_next hfinish (.refl _))

theorem reaches_error (hi : i ≠ .ctxset) (e : Err) (s : State) :
    Reaches (seqFail e s) (outcomeOf i (some (.error e, s))) := by
  simpa [outcomeOf, complete, hi] using reaches_errorCompletion e s

/-- From `S_RELEASE` the sequencer comes to the completion of a success (R166), once it writes what is released. -/
theorem reaches_release {r : Release} (h : seqRelease (seqGoto .sRelease s) = .next (seqGoto .sFinish (r.apply s))) :
    Reaches (seqGoto .sRelease s) (outcomeOf i (some (.ok r, s))) := by
  have hfinish : seqStep (seqGoto .sFinish (r.apply s)) = .next (complete i (.ok r, s)) :=
    congrArg Host.Outcome.next (finishCommand_seqGoto .sFinish (r.apply s))
  exact .of_next h (.of_next hfinish (.refl _))

/-- As `reaches_release`, for bytes that stand in one of the block's arrays. -/
theorem reaches_releaseOut {out : Bytes}
    (h : seqRelease (seqGoto .sRelease s) = seqReleaseOut (some out) (seqGoto .sRelease s)) :
    Reaches (seqGoto .sRelease s) (outcomeOf i (some (.ok (.bytes out), s))) :=
  reaches_release (r := .bytes out) h

/-! ## The checks (R173) -/

theorem validate_seqGoto (i : Instr) (q : SeqState) (s : State) : validate i (seqGoto q s) = validate i s := by
  cases i <;> rfl

/-- The first failing check takes the sequencer to `S_FAIL`. -/
theorem reaches_of_invalid {e : Err} (hcur : s.cur = encode i) (hv : validate i s = some e) :
    Reaches (seqGoto .sValidate s) (outcomeOf i (some (.error e, s))) := by
  have hstep : seqStep (seqGoto .sValidate s) = .next (seqFail e (if i = .ctxset then setCtxValid false s else s)) := by
    simp only [seqStep, seqGoto_seq, seqValidate, seqGoto_cur, hcur, decode_encode, validate_seqGoto, hv]
    split <;> rfl
  exact .of_next hstep (reaches_errorCompletion e _)

end

/-- The state of a command that has just started (R160) and whose checks pass. -/
structure Checked (i : Instr) (s : State) : Prop where
  cur : s.cur = encode i
  blk : s.blk = 0
  valid : validate i s = none

/-- A command whose checks pass and which needs no other work in `S_VALIDATE` goes to `S_COMPUTE` (R162). -/
theorem reaches_of_computed {i : Instr} {s : State} {o : Host.Outcome State Fault Refusal} (h : Checked i s)
    (hi : i ≠ .parse ∧ i ≠ .receive ∧ i ≠ .cryptblock) (hcomputed : Reaches (seqGoto .sCompute s) o) :
    Reaches (seqGoto .sValidate s) o := by
  refine .of_next ?_ hcomputed
  simp only [seqStep, seqGoto_seq, seqValidate, seqGoto_cur, h.cur, decode_encode, validate_seqGoto, h.valid]
  obtain ⟨hparse, hreceive, hcryptblock⟩ := hi
  cases i
  case parse => exact absurd rfl hparse
  case receive => exact absurd rfl hreceive
  case cryptblock => exact absurd rfl hcryptblock
  all_goals rfl

/-- The sequencer refines a command when it computes what the command does once the checks have passed. -/
theorem seqRun_refines_exec {i : Instr}
    (h : ∀ s, Checked i s → Reaches (seqGoto .sValidate s) (outcomeOf i (attemptChecked i s))) (s : State) :
    ∃ n, seqRun n (startCommand (encode i) s) = exec i s := by
  rw [exec_eq_attempt]
  cases hv : validate i (startCommand (encode i) s) with
  | some e => exact attempt_of_invalid hv ▸ reaches_of_invalid (s := startCommand (encode i) s) rfl hv
  | none => exact attempt_of_valid hv ▸ h (startCommand (encode i) s) ⟨rfl, rfl, hv⟩

/-! ## The frame of a command (R100) -/

theorem buildCommandFrame_of_fits {op p1 : Byte} {p2 : Word16} {payload : Bytes} {s : State}
    (h : payload.length ≤ s.cfg.maxPayload) :
    buildCommandFrame op p1 p2 payload s =
      (.ok (commandFrame s.cfg op p1 p2 payload), storeFrame op p1 p2 payload s) := by
  rw [buildCommandFrame, if_neg (by omega)]

theorem buildCommandFrame_of_tooLong {op p1 : Byte} {p2 : Word16} {payload : Bytes} {s : State}
    (h : s.cfg.maxPayload < payload.length) :
    buildCommandFrame op p1 p2 payload s = (.error .invalidParameter, s) := by
  rw [buildCommandFrame, if_pos h]

theorem seqFrame_of_fits {op p1 : Byte} {p2 : Word16} {payload : Bytes} {q q' : SeqState} {s : State}
    (h : payload.length ≤ s.cfg.maxPayload) :
    seqFrame op p1 p2 payload q' (seqGoto q s) = .next (seqGoto q' (storeFrame op p1 p2 payload s)) := by
  rw [seqFrame, buildCommandFrame_of_fits (by exact h)]
  rfl

theorem seqFrame_of_tooLong {op p1 : Byte} {p2 : Word16} {payload : Bytes} {q q' : SeqState} {s : State}
    (h : s.cfg.maxPayload < payload.length) :
    seqFrame op p1 p2 payload q' (seqGoto q s) = .next (seqFail .invalidParameter s) := by
  rw [seqFrame, buildCommandFrame_of_tooLong (by exact h)]
  rfl

/-- The frame stands in `TXBUF[0..TXLEN)`. -/
theorem storeFrame_readBytes (op p1 : Byte) (p2 : Word16) (payload : Bytes) (s : State) :
    (storeFrame op p1 p2 payload s).txbuf.readBytes 0 (storeFrame op p1 p2 payload s).txlen =
      some (commandFrame s.cfg op p1 p2 payload) :=
  readBytes_writeBytes s.txbuf 0 (commandFrame s.cfg op p1 p2 payload)

theorem storeFrame_cur (op p1 : Byte) (p2 : Word16) (payload : Bytes) (s : State) :
    (storeFrame op p1 p2 payload s).cur = s.cur :=
  (storeFrame_frame op p1 p2 payload s).cur

theorem seqStep_sWake (s : State) : seqStep (seqGoto .sWake s) = .next (seqGoto .sTx (busWake s)) := rfl

/-- `S_TX` of SEND (R162). -/
theorem seqStep_sTx_send {s : State} {f : Bytes} (hcur : s.cur = encode .send)
    (hf : s.txbuf.readBytes 0 s.txlen = some f) :
    seqStep (seqGoto .sTx s) = .next (seqGoto .sRelease (busWrite f s)) := by
  simp only [seqStep, seqGoto_seq, seqTx, seqGoto_txbuf, seqGoto_txlen, hf, withBytes, seqGoto_cur, hcur, decode_encode]
  rfl

/-! ## The response in `RXBUF` (R103) -/

/-- The payload of a response that parses is what `S_RELEASE` and `S_BLK_POST` read. -/
theorem rxPayload_of_parsed {cfg : Config} {s : State} {raw p : Bytes} (hraw : s.rxbuf.readBytes 0 s.rxcnt = some raw)
    (hp : parseResponse cfg raw = .ok p) : rxPayload s = some p := by
  have hlen := parseResponse_length hp
  have hcnt := readBytes_length hraw
  obtain ⟨hcount, hcrc⟩ := parseResponse_ok hp
  obtain rfl : (raw.drop 1).take (raw.length - 3) = p := Except.ok.inj ((parseResponse_of_valid hcount hcrc).symm.trans hp)
  rw [rxPayload, hcnt]
  exact readBytes_drop_take hraw (by omega)

theorem rxPayload_seqGoto (q : SeqState) (s : State) : rxPayload (seqGoto q s) = rxPayload s := rfl

/-- The three commands that release the payload of a response. -/
theorem reaches_release_payload {i : Instr} {s : State} {p : Bytes} (hi : i = .parse ∨ i = .receive ∨ i = .cryptblock)
    (hcur : s.cur = encode i) (hp : rxPayload s = some p) :
    Reaches (seqGoto .sRelease s) (outcomeOf i (some (.ok (.bytes p), s))) := by
  refine reaches_releaseOut ?_
  rcases hi with rfl | rfl | rfl <;> simp only [seqRelease, seqGoto_cur, hcur, decode_encode, rxPayload_seqGoto, hp]

theorem parseEffect_seqGoto (raw : Bytes) (q : SeqState) (s : State) :
    parseEffect raw (seqGoto q s) = seqGoto q (parseEffect raw s) := by
  rw [parseEffect, parseEffect, seqGoto_cfg]
  split <;> rfl

/-- `S_PARSE` of PARSE: the parser's verdict on what stands in `RXBUF` (R103). -/
theorem reaches_parsed {s : State} {raw : Bytes} (hcur : s.cur = encode .parse)
    (hraw : s.rxbuf.readBytes 0 s.rxcnt = some raw) :
    Reaches (seqGoto .sParse s)
      (outcomeOf .parse (some (releasing (parseResponse s.cfg raw, parseEffect raw s)))) := by
  refine .of_step ?_
  simp only [seqStep, seqGoto_seq, seqParse, seqGoto_rxbuf, seqGoto_rxcnt, hraw, withBytes, seqGoto_cur, hcur,
    decode_encode, seqGoto_cfg, parseEffect_seqGoto]
  obtain ⟨r, heffect⟩ := parseEffect_frame raw s
  rw [heffect]
  cases hparsed : parseResponse s.cfg raw with
  | error e => exact reaches_error (by decide) e (setCrcreg r s)
  | ok p =>
    have hpayload : rxPayload (setCrcreg r s) = some p := rxPayload_of_parsed (s := s) hraw hparsed
    exact reaches_release_payload (s := setCrcreg r s) (.inl rfl) hcur hpayload

/-! ## The commands without a receive -/

section
variable {s : State}

theorem reaches_crc16 (h : Checked .crc16 s) :
    Reaches (seqGoto .sValidate s) (outcomeOf .crc16 (attemptChecked .crc16 s)) := by
  refine reaches_of_computed h (by decide) (.of_step ?_)
  simp only [seqStep, seqGoto_seq, seqCompute, seqGoto_cur, h.cur, decode_encode]
  refine .readsInput fun data _ => ?_
  refine reaches_release (s := setCrcreg (crcReg data) s) ?_
  simp only [seqRelease, seqGoto_cur, setCrcreg_cur, h.cur, decode_encode, Release.apply, loByte_or_hiByte]
  rfl

theorem reaches_reqsize (h : Checked .reqsize s) :
    Reaches (seqGoto .sValidate s) (outcomeOf .reqsize (attemptChecked .reqsize s)) := by
  refine reaches_of_computed h (by decide) (.of_next (t := seqGoto .sRelease s) ?_ ?_)
  · simp only [seqStep, seqGoto_seq, seqCompute, seqGoto_cur, h.cur, decode_encode]
    rfl
  · cases hsize : requiredOutputSize s.ops.inlen.toNat (paddingOfBit s.ops.pPad) with
    | ok n =>
      simp only [attemptChecked, hsize]
      refine reaches_release ?_
      simp only [seqRelease, seqGoto_cur, h.cur, decode_encode, seqGoto_ops, hsize]
      rfl
    | error e =>
      simp only [attemptChecked, hsize]
      refine .of_next (t := seqFail e s) ?_ (reaches_error (by decide) e s)
      simp only [seqStep, seqGoto_seq, seqRelease, seqGoto_cur, h.cur, decode_encode, seqGoto_ops, hsize]
      rfl

theorem reaches_ctxset (h : Checked .ctxset s) :
    Reaches (seqGoto .sValidate s) (outcomeOf .ctxset (attemptChecked .ctxset s)) := by
  refine reaches_of_computed h (by decide) (.of_next (t := seqGoto .sRelease s) ?_ (reaches_release ?_))
  · simp only [seqStep, seqGoto_seq, seqCompute, seqGoto_cur, h.cur, decode_encode]
    rfl
  · simp only [seqRelease, seqGoto_cur, h.cur, decode_encode]
    rfl

theorem reaches_build (h : Checked .build s) :
    Reaches (seqGoto .sValidate s) (outcomeOf .build (attemptChecked .build s)) := by
  refine reaches_of_computed h (by decide) (.of_step ?_)
  simp only [seqStep, seqGoto_seq, seqCompute, seqGoto_cur, h.cur, decode_encode, seqGoto_ops]
  refine .readsInput fun payload _ => ?_
  by_cases hlong : s.cfg.maxPayload < payload.length
  · rw [seqFrame_of_tooLong hlong, buildCommandFrame_of_tooLong hlong]
    exact reaches_error (by decide) _ s
  · rw [seqFrame_of_fits (by omega), buildCommandFrame_of_fits (by omega)]
    refine reaches_releaseOut ?_
    simp only [seqRelease, seqGoto_cur, storeFrame_cur, h.cur, decode_encode, seqGoto_txbuf, seqGoto_txlen,
      storeFrame_readBytes]

theorem reaches_send (h : Checked .send s) :
    Reaches (seqGoto .sValidate s) (outcomeOf .send (attemptChecked .send s)) := by
  refine reaches_of_computed h (by decide) (.of_step ?_)
  simp only [seqStep, seqGoto_seq, seqCompute, seqGoto_cur, h.cur, decode_encode, seqGoto_ops]
  refine .readsInput fun payload _ => ?_
  rcases send_spec s.ops.pOpcode s.ops.pParam1 s.ops.pParam2 payload s with ⟨hlong, hsend⟩ | ⟨hfits, hsend⟩
  · rw [seqFrame_of_tooLong hlong, hsend]
    exact reaches_error (by decide) _ s
  · rw [seqFrame_of_fits hfits, hsend]
    have hframe := storeFrame_readBytes s.ops.pOpcode s.ops.pParam1 s.ops.pParam2 payload s
    have hcur := (storeFrame_cur s.ops.pOpcode s.ops.pParam1 s.ops.pParam2 payload s).trans h.cur
    generalize storeFrame s.ops.pOpcode s.ops.pParam1 s.ops.pParam2 payload s = t at hframe hcur
    generalize commandFrame s.cfg s.ops.pOpcode s.ops.pParam1 s.ops.pParam2 payload = f at hframe
    refine .of_next (seqStep_sWake t) (.of_next (seqStep_sTx_send (s := busWake t) hcur hframe) ?_)
    refine reaches_release (s := busWrite f (busWake t)) (r := .size 0) ?_
    simp only [seqRelease, seqGoto_cur, busWrite_cur, busWake_cur, hcur, decode_encode]
    rfl

theorem reaches_parse (h : Checked .parse s) :
    Reaches (seqGoto .sValidate s) (outcomeOf .parse (attemptChecked .parse s)) := by
  refine .of_step ?_
  simp only [seqStep, seqGoto_seq, seqValidate, seqGoto_cur, h.cur, decode_encode, validate_seqGoto, h.valid]
  refine .readsInput fun raw _ => ?_
  exact reaches_parsed (s := rxLoad raw s) h.cur (readBytes_writeBytes s.rxbuf 0 raw)

end

/-- Settles O42: each of the six commands by its way through the states of R161. -/
theorem sequencerRefinesLocalCommands : Obligations.SequencerRefinesLocalCommands := by
  intro i s hi
  refine seqRun_refines_exec (fun s h => ?_) s
  rcases hi with rfl | rfl | rfl | rfl | rfl | rfl
  · exact reaches_crc16 h
  · exact reaches_build h
  · exact reaches_parse h
  · exact reaches_reqsize h
  · exact reaches_ctxset h
  · exact reaches_send h

end Sys2Proof.Machine

/-! # The receive and the single block in the sequencer: O43

`S_RX_REQ` makes the requests of the receive loop one by one, with `ATTEMPTS` counting up to the loop's budget. One block is
then a frame, its events and a receive, which is what `cryptBlock` does (`reaches_block`). -/

namespace Sys2Proof.Machine

/-! ## The retry loop (R163) -/

/-- What a receive collects stands in `RXBUF[0..RXCNT)`. -/
theorem collect_readBytes (e : Nat) (s : State) :
    (collect e s).2.rxbuf.readBytes 0 (collect e s).2.rxcnt = some (collect e s).1 := by
  obtain ⟨cs, -, -, hraw, hcnt, hbuf, -⟩ := collect_spec e s
  rw [hcnt, hraw, hbuf]

/-- While bytes are missing and the budget lasts, `S_RX_REQ` makes a request (R162). -/
theorem seqStep_sRxReq_of_missing {s : State} (hmissing : s.rxcnt < seqExpected s)
    (hbudget : s.attempts < Param.retryBudget) :
    seqStep (seqGoto .sRxReq s) = .next (seqGoto .sRxReq (rxRequest (seqExpected s) s)) :=
  if_pos ⟨hmissing, hbudget⟩

/-- Else it ends the loop. -/
theorem seqStep_sRxReq_of_end {s : State} (h : s.rxcnt < seqExpected s → ¬ s.attempts < Param.retryBudget) :
    seqStep (seqGoto .sRxReq s) = .next (seqGoto .sGoIdle s) :=
  if_neg fun hmore => h hmore.1 hmore.2

/-- The transitions in `S_RX_REQ` are the receive loop, when `ATTEMPTS` leaves it its budget. -/
theorem reaches_rxLoop {fuel : Nat} {got : Bytes} {s : State} (hbudget : s.attempts + fuel = Param.retryBudget) :
    Reaches (seqGoto .sRxReq s) (.next (seqGoto .sGoIdle (rxLoop (seqExpected s) fuel got s).2)) := by
  induction fuel generalizing got s with
  | zero => exact .of_next (seqStep_sRxReq_of_end fun _ => by omega) (.refl _)
  | succ fuel ih =>
    by_cases hmissing : s.rxcnt < seqExpected s
    · have hattempts : (rxRequest (seqExpected s) s).attempts = s.attempts + 1 := rfl
      have hrest := ih (got := got ++ busAnswer (chunkSize (seqExpected s) s.rxcnt) s) (s := rxRequest (seqExpected s) s)
        (by omega)
      rw [rxLoop, if_pos hmissing]
      exact .of_next (seqStep_sRxReq_of_missing hmissing (by omega)) hrest
    · rw [rxLoop, if_neg hmissing]
      exact .of_next (seqStep_sRxReq_of_end fun hmore => absurd hmore hmissing) (.refl _)

theorem seqStep_sGoIdle (s : State) : seqStep (seqGoto .sGoIdle s) = .next (seqGoto .sParse (busIdle s)) := rfl

/-- From the start of a receive to `S_PARSE` (R113, R118). -/
theorem reaches_collected (s : State) :
    Reaches (seqGoto .sRxReq (rxStart s)) (.next (seqGoto .sParse (collect (seqExpected s) s).2)) := by
  have hloop : Reaches (seqGoto .sRxReq (rxStart s)) _ := reaches_rxLoop (fuel := Param.retryBudget) (got := []) rfl
  exact hloop.trans (.of_next (seqStep_sGoIdle _) (.refl _))

theorem receiveEffect_seqGoto (e : Nat) (raw : Bytes) (q : SeqState) (s : State) :
    receiveEffect e raw (seqGoto q s) = seqGoto q (receiveEffect e raw s) := by
  unfold receiveEffect
  split
  · rfl
  · exact parseEffect_seqGoto raw q s

/-- A receive that succeeds has a payload in `RXBUF` (R117). -/
theorem parseResponse_of_receiveOutcome_ok {cfg : Config} {e : Nat} {raw p : Bytes}
    (h : receiveOutcome cfg e raw = .ok p) : parseResponse cfg raw = .ok p := by
  unfold receiveOutcome at h
  split at h
  · cases h
  · exact h

/-! ## RECEIVE (R114) -/

section
variable {s : State} {raw : Bytes}

/-- `S_PARSE` of RECEIVE: what the collected bytes come to. -/
theorem reaches_received (hcur : s.cur = encode .receive) (hraw : s.rxbuf.readBytes 0 s.rxcnt = some raw) :
    Reaches (seqGoto .sParse s) (outcomeOf .receive (some
      (releasing (receiveOutcome s.cfg (seqExpected s) raw, receiveEffect (seqExpected s) raw s)))) := by
  have hexpected : seqExpected (seqGoto .sParse s) = seqExpected s := rfl
  refine .of_step ?_
  simp only [seqStep, seqGoto_seq, seqParse, seqGoto_rxbuf, seqGoto_rxcnt, hraw, withBytes, seqGoto_cur, hcur,
    decode_encode, seqGoto_cfg, hexpected, receiveEffect_seqGoto]
  obtain ⟨r, heffect⟩ := receiveEffect_frame (seqExpected s) raw s
  rw [heffect]
  cases hout : receiveOutcome s.cfg (seqExpected s) raw with
  | error e => exact reaches_error (by decide) e (setCrcreg r s)
  | ok p =>
    have hpayload : rxPayload (setCrcreg r s) = some p :=
      rxPayload_of_parsed (s := s) hraw (parseResponse_of_receiveOutcome_ok hout)
    exact reaches_release_payload (s := setCrcreg r s) (.inr (.inl rfl)) hcur hpayload

theorem reaches_receive (h : Checked .receive s) :
    Reaches (seqGoto .sValidate s) (outcomeOf .receive (attemptChecked .receive s)) := by
  refine .of_next (t := seqGoto .sRxReq (rxStart s)) ?_ ((reaches_collected s).trans ?_)
  · simp only [seqStep, seqGoto_seq, seqValidate, seqGoto_cur, h.cur, decode_encode, validate_seqGoto, h.valid]
    rfl
  · have hexpected : seqExpected s = s.ops.pExplen.toNat := if_pos h.cur
    have hframe := (collect_frame (seqExpected s) s).toKeepsBesideLoop
    have hstill : seqExpected (collect (seqExpected s) s).2 = seqExpected s := by
      rw [seqExpected, hframe.cur, hframe.ops, ← seqExpected]
    have hparse := reaches_received (hframe.cur.trans h.cur) (collect_readBytes (seqExpected s) s)
    simp only [attemptChecked, receive, ← hexpected]
    rwa [hstill, hframe.cfg] at hparse

end

/-! ## One block (R132, R133) -/

/-- The commands that send blocks to the device. -/
def SendsBlocks (i : Instr) : Prop := i = .cryptblock ∨ i = .encrypt ∨ i = .decrypt

section
variable {i : Instr} {s : State}

theorem seqStep_sExec (s : State) : seqStep (seqGoto .sExec s) = .next (seqGoto .sRxReq (rxStart (busExecWait s))) := rfl

theorem SendsBlocks.seqExpected_eq (hi : SendsBlocks i) (hcur : s.cur = encode i) :
    seqExpected s = Param.cryptRespLen := by
  refine if_neg ?_
  rw [hcur]
  rcases hi with rfl | rfl | rfl <;> decide

theorem SendsBlocks.seqStep_sTx (hi : SendsBlocks i) (hcur : s.cur = encode i) {f : Bytes}
    (hf : s.txbuf.readBytes 0 s.txlen = some f) :
    seqStep (seqGoto .sTx s) = .next (seqGoto .sExec (busWrite f s)) := by
  simp only [seqStep, seqGoto_seq, seqTx, seqGoto_txbuf, seqGoto_txlen, hf, withBytes, seqGoto_cur, hcur, decode_encode]
  rcases hi with rfl | rfl | rfl <;> rfl

theorem SendsBlocks.seqStep_sParse_of_ok (hi : SendsBlocks i) (hcur : s.cur = encode i) {raw p : Bytes}
    (hraw : s.rxbuf.readBytes 0 s.rxcnt = some raw) (hout : receiveOutcome s.cfg Param.cryptRespLen raw = .ok p) :
    seqStep (seqGoto .sParse s) = .next (seqGoto .sBlkPost (receiveEffect Param.cryptRespLen raw s)) := by
  have hexpected : seqExpected (seqGoto .sParse s) = Param.cryptRespLen := hi.seqExpected_eq (by exact hcur)
  simp only [seqStep, seqGoto_seq, seqParse, seqGoto_rxbuf, seqGoto_rxcnt, hraw, withBytes, seqGoto_cur, hcur,
    decode_encode, seqGoto_cfg, hexpected, hout, receiveEffect_seqGoto]
  rcases hi with rfl | rfl | rfl <;> rfl

theorem SendsBlocks.seqStep_sParse_of_error (hi : SendsBlocks i) (hcur : s.cur = encode i) {raw : Bytes} {e : Err}
    (hraw : s.rxbuf.readBytes 0 s.rxcnt = some raw) (hout : receiveOutcome s.cfg Param.cryptRespLen raw = .error e) :
    seqStep (seqGoto .sParse s) = .next (seqToClassify e (receiveEffect Param.cryptRespLen raw s)) := by
  have hexpected : seqExpected (seqGoto .sParse s) = Param.cryptRespLen := hi.seqExpected_eq (by exact hcur)
  simp only [seqStep, seqGoto_seq, seqParse, seqGoto_rxbuf, seqGoto_rxcnt, hraw, withBytes, seqGoto_cur, hcur,
    decode_encode, seqGoto_cfg, hexpected, hout, receiveEffect_seqGoto]
  rcases hi with rfl | rfl | rfl <;> rfl

/-- `S_CLASSIFY` reads the bytes the parser has read (R133). -/
theorem seqStep_seqToClassify {raw : Bytes} (e : Err) (hraw : s.rxbuf.readBytes 0 s.rxcnt = some raw) :
    seqStep (seqToClassify e s) = .next (seqFail (classify s.cfg raw e) (classifyEffect raw s)) := by
  have hstep : seqStep (seqToClassify e s) =
      withBytes .scratchUnwritten (s.rxbuf.readBytes 0 s.rxcnt)
        (fun raw => .next (seqFail (classify s.cfg raw e) (classifyEffect raw (seqToClassify e s)))) := rfl
  have hcfg : (seqToClassify e s).cfg = s.cfg := rfl
  rw [hstep, hraw, withBytes, classifyEffect, classifyEffect, hcfg]
  split <;> rfl

end

/-- From what a block answers the sequencer comes to `o`: with a payload, which then stands in `RXBUF`, from `S_BLK_POST`,
with an error from `S_FAIL` (R162). -/
structure BlockLeadsTo (a : Except Err Bytes × State) (o : Host.Outcome State Fault Refusal) : Prop where
  ok : ∀ p t, a = (.ok p, t) → rxPayload t = some p → Reaches (seqGoto .sBlkPost t) o
  error : ∀ e t, a = (.error e, t) → Reaches (seqFail e t) o

section
variable {i : Instr} {s : State} {o : Host.Outcome State Fault Refusal}

/-- `S_PARSE` and `S_CLASSIFY` of a block: what the collected bytes come to. -/
theorem SendsBlocks.reaches_answer (hi : SendsBlocks i) (hcur : s.cur = encode i) {raw : Bytes}
    (hraw : s.rxbuf.readBytes 0 s.rxcnt = some raw)
    (h : BlockLeadsTo (blockAnswer raw (receiveEffect Param.cryptRespLen raw s)
      (receiveOutcome s.cfg Param.cryptRespLen raw)) o) : Reaches (seqGoto .sParse s) o := by
  obtain ⟨r, heffect⟩ := receiveEffect_frame Param.cryptRespLen raw s
  have hraw' : (setCrcreg r s).rxbuf.readBytes 0 (setCrcreg r s).rxcnt = some raw := hraw
  cases hout : receiveOutcome s.cfg Param.cryptRespLen raw with
  | ok p =>
    rw [hout, heffect] at h
    refine .of_next (heffect ▸ hi.seqStep_sParse_of_ok hcur hraw hout) (h.ok p _ rfl ?_)
    exact rxPayload_of_parsed hraw' (parseResponse_of_receiveOutcome_ok hout)
  | error e =>
    rw [hout, heffect] at h
    refine .of_next (heffect ▸ hi.seqStep_sParse_of_error hcur hraw hout) ?_
    exact .of_next (seqStep_seqToClassify e hraw') (h.error _ _ rfl)

end

/-! ## The block as a whole -/

section
variable {i : Instr} {s : State} {o : Host.Outcome State Fault Refusal} {x raw : Bytes} {slot key : Byte} {dir : Direction}

theorem cryptBlock_of_tooLong (hkey : firstError (keyChecks slot key) = none) (hlong : s.cfg.maxPayload < x.length) :
    cryptBlock x slot key dir s = (.error .invalidParameter, s) := by
  rcases send_spec s.cfg.aesOpcode (modeByte key dir) (slot.setWidth 16) x s with ⟨-, hsend⟩ | ⟨hfits, -⟩
  · simp only [cryptBlock, hkey, hsend]
  · omega

/-- A block whose frame fits is sent, and answers what is collected then (R132). -/
theorem cryptBlock_of_fits (hkey : firstError (keyChecks slot key) = none) (hfits : x.length ≤ s.cfg.maxPayload) {t : State}
    (hcollect : collect Param.cryptRespLen (blockSent x slot key dir s) = (raw, t)) :
    cryptBlock x slot key dir s =
      blockAnswer raw (receiveEffect Param.cryptRespLen raw t) (receiveOutcome t.cfg Param.cryptRespLen raw) := by
  have hcfg : (receiveEffect Param.cryptRespLen raw t).cfg = s.cfg := by
    rw [(receiveEffect_keeps _ raw t).cfg]
    simpa [hcollect] using (collect_frame Param.cryptRespLen (blockSent x slot key dir s)).cfg.trans
      (blockSent_cfg x slot key dir s)
  rcases send_spec s.cfg.aesOpcode (modeByte key dir) (slot.setWidth 16) x s with ⟨hlong, -⟩ | ⟨-, hsend⟩
  · omega
  simp only [cryptBlock, hkey, hsend]
  rw [← cryptFrame, ← blockSent, hcollect, ← hcfg]
  simp only [(receiveEffect_keeps Param.cryptRespLen raw t).cfg]
  cases receiveOutcome t.cfg Param.cryptRespLen raw with
  | ok p => rfl
  | error e => rw [blockAnswer, (receiveEffect_keeps Param.cryptRespLen raw t).cfg]

/-- From `S_WAKE` to `S_PARSE`: the events of a block (R132). -/
theorem SendsBlocks.reaches_blockCollected (hi : SendsBlocks i) (hcur : s.cur = encode i) :
    Reaches (seqGoto .sWake (storeFrame s.cfg.aesOpcode (modeByte key dir) (slot.setWidth 16) x s))
      (.next (seqGoto .sParse (collect Param.cryptRespLen (blockSent x slot key dir s)).2)) := by
  have hframe := storeFrame_readBytes s.cfg.aesOpcode (modeByte key dir) (slot.setWidth 16) x s
  have hcur' := (storeFrame_cur s.cfg.aesOpcode (modeByte key dir) (slot.setWidth 16) x s).trans hcur
  rw [← cryptFrame] at hframe
  rw [blockSent]
  generalize storeFrame s.cfg.aesOpcode (modeByte key dir) (slot.setWidth 16) x s = u at hframe hcur' ⊢
  generalize cryptFrame s.cfg slot key dir x = f at hframe ⊢
  have hreceive := reaches_collected (busExecWait (busWrite f (busWake u)))
  rw [hi.seqExpected_eq (by exact hcur')] at hreceive
  refine .of_next (seqStep_sWake u) (.of_next (hi.seqStep_sTx (s := busWake u) hcur' hframe) ?_)
  exact .of_next (seqStep_sExec (busWrite f (busWake u))) hreceive

/-- From `S_BLK_PRE`, when it builds the frame of a block, the sequencer does what `cryptBlock` does. -/
theorem SendsBlocks.reaches_block (hi : SendsBlocks i) (hcur : s.cur = encode i)
    (hkey : firstError (keyChecks slot key) = none)
    (hpre : seqStep (seqGoto .sBlkPre s) =
      seqFrame s.cfg.aesOpcode (modeByte key dir) (slot.setWidth 16) x .sWake (seqGoto .sBlkPre s))
    (h : BlockLeadsTo (cryptBlock x slot key dir s) o) : Reaches (seqGoto .sBlkPre s) o := by
  by_cases hlong : s.cfg.maxPayload < x.length
  · rw [seqFrame_of_tooLong hlong] at hpre
    exact .of_next hpre (h.error _ _ (cryptBlock_of_tooLong hkey hlong))
  · rw [seqFrame_of_fits (by omega)] at hpre
    refine .of_next hpre ((hi.reaches_blockCollected hcur).trans ?_)
    have hframe := (blockSent_frame x slot key dir s).trans
      (collect_frame Param.cryptRespLen (blockSent x slot key dir s)).toKeepsBesideLink
    have hraw := collect_readBytes Param.cryptRespLen (blockSent x slot key dir s)
    generalize hcollect : collect Param.cryptRespLen (blockSent x slot key dir s) = r at hframe hraw ⊢
    obtain ⟨raw, t⟩ := r
    rw [cryptBlock_of_fits hkey (by omega) hcollect] at h
    exact hi.reaches_answer (hframe.cur.trans hcur) hraw h

end

/-! ## CRYPTBLOCK (R134) -/

theorem validateCryptblock_keyChecks {s : State} (h : validateCryptblock s = none) :
    firstError (keyChecks s.ops.pSlot s.ops.pKeyidx) = none :=
  firstError_eq_none_iff.2 fun c hc => firstError_eq_none_iff.1 h c (List.mem_append_right _ hc)

theorem reaches_cryptblock {s : State} (h : Checked .cryptblock s) :
    Reaches (seqGoto .sValidate s) (outcomeOf .cryptblock (attemptChecked .cryptblock s)) := by
  have hi : SendsBlocks .cryptblock := .inl rfl
  have hstart : seqStep (seqGoto .sValidate s) = .next (seqGoto .sBlkPre s) := by
    simp only [seqStep, seqGoto_seq, seqValidate, seqGoto_cur, h.cur, decode_encode, validate_seqGoto, h.valid]
    rfl
  refine .of_next hstart ?_
  have hpre : seqStep (seqGoto .sBlkPre s) = withBytes .inbufUnwritten (readInbuf 0 16 s) (fun x =>
      seqFrame s.cfg.aesOpcode (modeByte s.ops.pKeyidx (directionOfBit s.ops.pDir)) (s.ops.pSlot.setWidth 16) x .sWake
        (seqGoto .sBlkPre s)) := by
    simp only [seqStep, seqGoto_seq, seqBlkPre, seqGoto_cur, h.cur, decode_encode]
    rfl
  cases hx : readInbuf 0 16 s with
  | none =>
    rw [hx] at hpre
    simp only [attemptChecked, hx]
    exact .of_step (hpre ▸ rfl)
  | some x =>
    rw [hx] at hpre
    simp only [attemptChecked, hx, Option.map_some]
    refine hi.reaches_block h.cur (validateCryptblock_keyChecks h.valid) hpre ⟨fun p t ht hp => ?_, fun e t ht => ?_⟩
    · have hcur : t.cur = encode .cryptblock := by
        have hframe := cryptBlock_frame x s.ops.pSlot s.ops.pKeyidx (directionOfBit s.ops.pDir) s
        rw [ht] at hframe
        exact hframe.cur.trans h.cur
      rw [ht]
      refine .of_next (t := seqGoto .sRelease t) ?_ (reaches_release_payload (.inr (.inr rfl)) hcur hp)
      simp only [seqStep, seqGoto_seq, seqBlkPost, seqGoto_cur, hcur, decode_encode]
      rfl
    · rw [ht]
      exact reaches_error (by decide) e t

/-- Settles O43: the retry loop is `reaches_rxLoop`; CRYPTBLOCK is one block. -/
theorem sequencerRefinesReceiveAndCryptblock : Obligations.SequencerRefinesReceiveAndCryptblock := by
  intro i s hi
  refine seqRun_refines_exec (fun s h => ?_) s
  rcases hi with rfl | rfl
  · exact reaches_receive h
  · exact reaches_cryptblock h

end Sys2Proof.Machine

/-! # The block loops in the sequencer: O44

The loop of ENCRYPT works in WORK: the blocks that have come back stand before `16 * BLK`, those still to be sent behind it
(`WorkHolds`). The loop of DECRYPT reads INBUF and fills WORK from the beginning (`PlainHolds`). In both, `S_BLK_POST` goes
back to `S_BLK_PRE` while blocks are left. -/

namespace Sys2Proof.Machine

/-! ## From block to block (R164) -/

/-- Where the loop goes with `n` blocks left: to the next block, or to the state after the loop. -/
def loopState (atEnd : SeqState) : Nat → SeqState
  | 0 => atEnd
  | _ + 1 => .sBlkPre

theorem loopState_eq_ite (atEnd : SeqState) (n : Nat) : loopState atEnd n = if n = 0 then atEnd else .sBlkPre := by
  cases n <;> rfl

theorem seqNextBlock_eq {total n : Nat} {s : State} (atEnd : SeqState) (h : total = 16 * (s.blk + n)) :
    seqNextBlock total atEnd s = .next (seqGoto (loopState atEnd n) s) := by
  cases n with
  | zero => rw [seqNextBlock, if_neg (by omega), if_pos (by omega)]; rfl
  | succ n => rw [seqNextBlock, if_pos (by omega)]; rfl

/-! ## ENCRYPT (R147, R150) -/

/-- WORK in the loop of ENCRYPT: the answers `out` of the blocks before `BLK`, then the blocks `bs` still to be sent. -/
structure WorkHolds (out : Bytes) (bs : List Bytes) (s : State) : Prop where
  worklen : s.worklen = 16 * (s.blk + bs.length)
  back : s.work.readBytes 0 (16 * s.blk) = some out
  left : ∀ j b, bs[j]? = some b → s.work.readBytes (16 * (s.blk + j)) 16 = some b

/-- What `loadWork` loads are the blocks of the padded input (R147 step 2). -/
theorem workHolds_loadWork {q : Nat} {data : Bytes} {s : State} (hblk : s.blk = 0) (hlen : data.length = 16 * q) :
    WorkHolds [] (blocksOf q data) (loadWork data s) where
  worklen := by simp [hblk, hlen]
  back := by simp [hblk, Memory.readBytes]
  left j b hb := by
    obtain ⟨hj, rfl⟩ := getElem?_blocksOf hb
    rw [loadWork_blk, hblk, Nat.zero_add, loadWork_work]
    exact readBytes_drop_take (readBytes_writeBytes s.work 0 data) (by omega)

section
variable {out c b : Bytes} {bs : List Bytes} {s t : State}

theorem WorkHolds.of_frame (h : WorkHolds out bs s) (hframe : KeepsBesideLink s t) : WorkHolds out bs t where
  worklen := by rw [hframe.worklen, hframe.blk]; exact h.worklen
  back := by rw [hframe.work, hframe.blk]; exact h.back
  left := by rw [hframe.work, hframe.blk]; exact h.left

theorem WorkHolds.head (h : WorkHolds out (b :: bs) s) : s.work.readBytes (16 * s.blk) 16 = some b :=
  h.left 0 b rfl

/-- The answer of a block takes the block's place (R147 step 3). -/
theorem WorkHolds.encStore (h : WorkHolds out (b :: bs) s) (hc : c.length = 16) :
    WorkHolds (out ++ c) bs (encStore c s) where
  worklen := by
    have := h.worklen
    simp only [List.length_cons] at this
    simp only [encStore_worklen, encStore_blk]
    omega
  back := by
    have hout := readBytes_length h.back
    have hstored := readBytes_writeBytes_append c (by rw [hout]; exact h.back)
    rw [List.length_append, hout, hc, Nat.zero_add] at hstored
    rwa [encStore_work, encStore_blk, Nat.mul_succ]
  left j b' hb' := by
    rw [encStore_work, encStore_blk, readBytes_writeBytes_of_disjoint _ (.inr (by omega)), Nat.add_assoc, Nat.add_comm 1]
    exact h.left (j + 1) b' hb'

end

section
variable {s : State}

/-- `S_BLK_PRE` of ENCRYPT builds the frame of the next block of WORK (R161). -/
theorem seqStep_sBlkPre_encrypt {b : Bytes} (hcur : s.cur = encode .encrypt)
    (hb : s.work.readBytes (16 * s.blk) 16 = some b) :
    seqStep (seqGoto .sBlkPre s) =
      seqFrame s.cfg.aesOpcode (modeByte s.ctx.keyIdx .encrypt) (s.ctx.slot.setWidth 16) (encInput b s) .sWake
        (seqGoto .sBlkPre s) := by
  simp only [seqStep, seqGoto_seq, seqBlkPre, seqGoto_cur, hcur, decode_encode, seqGoto_work, seqGoto_blk, hb]
  rfl

/-- `S_BLK_POST` of ENCRYPT stores the block that came back, with `n` blocks then left. -/
theorem seqStep_sBlkPost_encrypt {c : Bytes} {n : Nat} (hcur : s.cur = encode .encrypt) (hc : rxPayload s = some c)
    (hn : (encStore c s).worklen = 16 * ((encStore c s).blk + n)) :
    seqStep (seqGoto .sBlkPost s) = .next (seqGoto (loopState .sRelease n) (encStore c s)) := by
  rw [← seqNextBlock_eq .sRelease hn]
  simp only [seqStep, seqGoto_seq, seqBlkPost, seqGoto_cur, hcur, decode_encode, rxPayload_seqGoto, hc]
  rfl

/-- `S_COMPUTE` of ENCRYPT loads WORK with the padded input (R147 step 2). -/
theorem seqStep_sCompute_encrypt {total : Nat} (hcur : s.cur = encode .encrypt)
    (hsize : requiredOutputSize s.ops.inlen.toNat (paddingOfBit s.ctx.pad) = .ok total) :
    seqStep (seqGoto .sCompute s) = withBytes .inbufUnwritten (readInbuf 0 s.ops.inlen.toNat s) (fun data =>
      .next (seqGoto (if (paddedInput (paddingOfBit s.ctx.pad) total data).length = 0 then .sRelease else .sBlkPre)
        (loadWork (paddedInput (paddingOfBit s.ctx.pad) total data) s))) := by
  simp only [seqStep, seqGoto_seq, seqCompute, seqGoto_cur, hcur, decode_encode, seqGoto_ops, seqGoto_ctx, hsize]
  rfl

end

/-- The outcome of ENCRYPT when the blocks before have come back as `out` and the loop goes on with the answer `a`. -/
def encryptOutcome (out : Bytes) (a : Except Err Bytes × State) : Host.Outcome State Fault Refusal :=
  outcomeOf .encrypt (some (releasing (a.1.map (out ++ ·), a.2)))

theorem encryptOutcome_nil (a : Except Err Bytes × State) :
    encryptOutcome [] a = outcomeOf .encrypt (some (releasing a)) := by
  obtain ⟨_ | _, _⟩ := a <;> rfl

/-- The loop of ENCRYPT: the sequencer sends the blocks that are left, and releases the answers or fails with a block. -/
theorem reaches_encBlocks {out : Bytes} {bs : List Bytes} {s : State} (hcur : s.cur = encode .encrypt)
    (hkey : firstError (keyChecks s.ctx.slot s.ctx.keyIdx) = none) (hwork : WorkHolds out bs s) :
    Reaches (seqGoto (loopState .sRelease bs.length) s) (encryptOutcome out (encBlocks bs s)) := by
  induction bs generalizing out s with
  | nil =>
    have hout : s.work.readBytes 0 s.worklen = some out := by rw [hwork.worklen]; exact hwork.back
    have hnil : encryptOutcome out (encBlocks [] s) = outcomeOf .encrypt (some (.ok (.bytes out), s)) := by
      simp [encryptOutcome, encBlocks, Except.map, releasing]
    rw [hnil]
    refine reaches_releaseOut ?_
    simp only [seqRelease, seqGoto_cur, hcur, decode_encode, seqGoto_work, seqGoto_worklen, hout]
  | cons b bs ih =>
    have hi : SendsBlocks .encrypt := .inr (.inl rfl)
    refine hi.reaches_block hcur hkey (seqStep_sBlkPre_encrypt hcur hwork.head) ⟨fun c t ht hpayload => ?_, fun e t ht => ?_⟩
    · have hframe := cryptBlock_frame (encInput b s) s.ctx.slot s.ctx.keyIdx .encrypt s
      have hc : c.length = 16 := cryptBlock_length (congrArg Prod.fst ht)
      rw [ht] at hframe
      have hstored := (hwork.of_frame hframe).encStore hc
      have hrest := ih (s := encStore c t) (hframe.cur.trans hcur)
        (by rw [encStore_ctx, hframe.ctx]; exact hkey) hstored
      have hout : encryptOutcome out (encBlocks (b :: bs) s) =
          encryptOutcome (out ++ c) (encBlocks bs (encStore c t)) := by
        simp only [encBlocks, ht]
        rcases encBlocks bs (encStore c t) with ⟨_ | cs, u⟩
        · rfl
        · simp [encryptOutcome, Except.map]
      exact hout ▸ .of_next (seqStep_sBlkPost_encrypt (hframe.cur.trans hcur) hpayload hstored.worklen) hrest
    · have hout : encryptOutcome out (encBlocks (b :: bs) s) = outcomeOf .encrypt (some (.error e, t)) := by
        simp only [encBlocks, ht]
        rfl
      exact hout ▸ reaches_error (by decide) e t

theorem validateEncrypt_keyChecks {s : State} (h : validateEncrypt s = none) :
    firstError (keyChecks s.ctx.slot s.ctx.keyIdx) = none :=
  firstError_eq_none_iff.2 fun c hc => firstError_eq_none_iff.1 h c (List.mem_append_right _ hc)

theorem reaches_encrypt {s : State} (h : Checked .encrypt s) :
    Reaches (seqGoto .sValidate s) (outcomeOf .encrypt (attemptChecked .encrypt s)) := by
  refine reaches_of_computed h (by decide) (.of_step ?_)
  cases hsize : requiredOutputSize s.ops.inlen.toNat (paddingOfBit s.ctx.pad) with
  | error e =>
    simp only [seqStep, seqGoto_seq, seqCompute, seqGoto_cur, h.cur, decode_encode, seqGoto_ops, seqGoto_ctx,
      attemptChecked, hsize]
    exact reaches_error (by decide) e s
  | ok total =>
    simp only [seqStep_sCompute_encrypt h.cur hsize, attemptChecked, hsize]
    refine .readsInput fun data hread => ?_
    obtain ⟨-, hwhole, -⟩ := requiredOutputSize_ok hsize
    have hlen := paddedInput_length (readBytes_length hread ▸ hsize)
    simp only [encryptAttempt]
    generalize paddedInput (paddingOfBit s.ctx.pad) total data = padded at hlen ⊢
    have hloop := reaches_encBlocks (s := loadWork padded s) h.cur (validateEncrypt_keyChecks h.valid)
      (workHolds_loadWork (q := total / 16) h.blk (by omega))
    have hempty : padded.length = 0 ↔ total / 16 = 0 := by omega
    simp only [blocksOf_length, loopState_eq_ite, ← hempty] at hloop
    rw [encryptOutcome_nil] at hloop
    exact hloop

/-! ## DECRYPT (R151, R150) -/

/-- WORK in the loop of DECRYPT: the plaintext `got` of the blocks before `BLK`, with `n` blocks of INBUF left. -/
structure PlainHolds (got : Bytes) (n : Nat) (s : State) : Prop where
  inlen : s.ops.inlen.toNat = 16 * (s.blk + n)
  back : s.work.readBytes 0 (16 * s.blk) = some got

section
variable {got c d : Bytes} {n : Nat} {s t : State}

theorem PlainHolds.of_frame (h : PlainHolds got n s) (hframe : KeepsBesideLink s t) : PlainHolds got n t where
  inlen := by rw [hframe.ops, hframe.blk]; exact h.inlen
  back := by rw [hframe.work, hframe.blk]; exact h.back

/-- The plaintext of a block extends what stands in WORK (R151 step 2). -/
theorem PlainHolds.decStore (h : PlainHolds got (n + 1) s) (c : Bytes) (hd : d.length = 16) :
    PlainHolds (got ++ decOutput d s) n (decStore c d s) where
  inlen := by
    have := h.inlen
    simp only [decStore_ops, decStore_blk]
    omega
  back := by
    have hgot := readBytes_length h.back
    have hstored := readBytes_writeBytes_append (decOutput d s) (by rw [hgot]; exact h.back)
    rw [List.length_append, hgot, decOutput_length hd, Nat.zero_add] at hstored
    rwa [decStore_work, decStore_blk, Nat.mul_succ]

/-- `S_BLK_PRE` of DECRYPT builds the frame of the next block of INBUF (R161). -/
theorem seqStep_sBlkPre_decrypt (hcur : s.cur = encode .decrypt) :
    seqStep (seqGoto .sBlkPre s) = withBytes .inbufUnwritten (readInbuf (16 * s.blk) 16 s) (fun c =>
      seqFrame s.cfg.aesOpcode (modeByte s.ctx.keyIdx .decrypt) (s.ctx.slot.setWidth 16) c .sWake
        (seqGoto .sBlkPre s)) := by
  simp only [seqStep, seqGoto_seq, seqBlkPre, seqGoto_cur, hcur, decode_encode]
  rfl

/-- `S_BLK_POST` of DECRYPT stores the plaintext of the block that came back, with `n` blocks then left. -/
theorem seqStep_sBlkPost_decrypt (hcur : s.cur = encode .decrypt) (hd : rxPayload s = some d)
    (hc : readInbuf (16 * s.blk) 16 s = some c)
    (hn : (decStore c d s).ops.inlen.toNat = 16 * ((decStore c d s).blk + n)) :
    seqStep (seqGoto .sBlkPost s) = .next (seqGoto (loopState .sUnpad n) (decStore c d s)) := by
  have hc' : readInbuf (16 * (seqGoto .sBlkPost s).blk) 16 (seqGoto .sBlkPost s) = some c := hc
  rw [← seqNextBlock_eq .sUnpad hn]
  simp only [seqStep, seqGoto_seq, seqBlkPost, seqGoto_cur, hcur, decode_encode, rxPayload_seqGoto, hd, hc']
  rfl

/-- `plainLen` is a latch: the completion clears it (R166). -/
theorem complete_setPlainLen (i : Instr) (out : Bytes) (n : Nat) (s : State) :
    complete i (.ok (.bytes out), setPlainLen n s) = complete i (.ok (.bytes out), s) := by
  have hcur : (releaseOut out (setPlainLen n s)).cur = (releaseOut out s).cur := rfl
  rw [complete, complete, Release.apply, Release.apply, finishCommand, finishCommand, hcur]
  split <;> rfl

/-- Removing the padding leaves the beginning of the buffer (R145, R151). -/
theorem removePadding_eq_take {p : Padding} {out : Bytes} (h : removePadding p d = .ok out) :
    out = d.take out.length := by
  cases p with
  | noPad => cases h; exact (List.take_length).symm
  | pkcs7 =>
    simp only [removePadding, unpad7] at h
    repeat' split at h
    all_goals cases h
    simp

/-- `S_UNPAD` and `S_RELEASE` of DECRYPT: from the whole plaintext in WORK to the completion (R151 steps 3 and 4). -/
theorem reaches_unpadded (hcur : s.cur = encode .decrypt) (hd : s.work.readBytes 0 s.ops.inlen.toNat = some d) :
    Reaches (seqGoto .sUnpad s)
      (outcomeOf .decrypt (some (releasing (removePadding (paddingOfBit s.ctx.pad) d, setWorklen d.length s)))) := by
  refine .of_step ?_
  simp only [seqStep, seqGoto_seq, seqUnpad, seqGoto_work, seqGoto_ops, hd, withBytes, seqGoto_ctx]
  cases hout : removePadding (paddingOfBit s.ctx.pad) d with
  | error e => exact reaches_error (by decide) e (setWorklen d.length s)
  | ok out =>
    have hfits := removePadding_length_le hout
    have hlen := readBytes_length hd
    have hread : s.work.readBytes 0 out.length = some out := by
      have htake := readBytes_drop_take (k := 0) (l := out.length) hd (by omega)
      rwa [List.drop_zero, ← removePadding_eq_take hout] at htake
    have hrelease : outcomeOf .decrypt (some (releasing (.ok out, setWorklen d.length s))) =
        outcomeOf .decrypt (some (.ok (.bytes out), setPlainLen out.length (setWorklen d.length s))) :=
      congrArg Host.Outcome.next (complete_setPlainLen .decrypt out out.length (setWorklen d.length s)).symm
    rw [hrelease]
    refine reaches_releaseOut (s := setPlainLen out.length (setWorklen d.length s)) ?_
    simp only [seqRelease, seqGoto_cur, setPlainLen_cur, setWorklen_cur, hcur, decode_encode, seqGoto_work,
      setPlainLen_work, setWorklen_work, seqGoto_plainLen, setPlainLen_plainLen, hread]

end

/-- The loop of DECRYPT: the sequencer sends the blocks that are left, and unpads the plaintext, fails with a block, or is
refused at a block with an unwritten byte. -/
theorem reaches_decBlocks {got : Bytes} {n : Nat} {s : State} (hcur : s.cur = encode .decrypt)
    (hkey : firstError (keyChecks s.ctx.slot s.ctx.keyIdx) = none) (hwork : PlainHolds got n s) :
    Reaches (seqGoto (loopState .sUnpad n) s)
      (outcomeOf .decrypt (decryptAttempt (paddingOfBit s.ctx.pad) (decBlocks n got s))) := by
  induction n generalizing got s with
  | zero => exact reaches_unpadded hcur (by rw [hwork.inlen]; exact hwork.back)
  | succ n ih =>
    have hpre := seqStep_sBlkPre_decrypt hcur
    simp only [decBlocks]
    cases hc : readInbuf (16 * s.blk) 16 s with
    | none =>
      rw [hc] at hpre
      exact .of_step (s := seqGoto .sBlkPre s) (hpre ▸ rfl)
    | some c =>
      rw [hc] at hpre
      have hi : SendsBlocks .decrypt := .inr (.inr rfl)
      refine hi.reaches_block hcur hkey hpre ⟨fun d t ht hpayload => ?_, fun e t ht => ?_⟩
      · have hframe := cryptBlock_frame c s.ctx.slot s.ctx.keyIdx .decrypt s
        have hd : d.length = 16 := cryptBlock_length (congrArg Prod.fst ht)
        rw [ht] at hframe
        have hstored := (hwork.of_frame hframe).decStore c hd
        have hc' : readInbuf (16 * t.blk) 16 t = some c := by
          rw [readInbuf, hframe.inbuf, hframe.blk]
          exact hc
        have hrest := ih (s := decStore c d t) (hframe.cur.trans hcur)
          (by rw [decStore_ctx, hframe.ctx]; exact hkey) hstored
        rw [decStore_ctx, hframe.ctx] at hrest
        simp only [ht]
        exact .of_next (seqStep_sBlkPost_decrypt (hframe.cur.trans hcur) hpayload hc' hstored.inlen) hrest
      · simp only [ht]
        exact reaches_error (by decide) e t

/-- What the checks of DECRYPT give its loop (R146). -/
theorem validateDecrypt_whole {s : State} (h : validateDecrypt s = none) :
    s.ops.inlen.toNat % 16 = 0 ∧ firstError (keyChecks s.ctx.slot s.ctx.keyIdx) = none := by
  have hcheck := firstError_eq_none_iff.1 h
  have hwhole := hcheck (decide (s.ops.inlen.toNat % 16 ≠ 0), .invalidInputLength) (by simp)
  exact ⟨by simpa using hwhole, firstError_eq_none_iff.2 fun c hc => hcheck c (List.mem_append_right _ hc)⟩

theorem reaches_decrypt {s : State} (h : Checked .decrypt s) :
    Reaches (seqGoto .sValidate s) (outcomeOf .decrypt (attemptChecked .decrypt s)) := by
  obtain ⟨hwhole, hkey⟩ := validateDecrypt_whole h.valid
  have hempty : s.ops.inlen = 0 ↔ s.ops.inlen.toNat / 16 = 0 := by
    rw [← BitVec.toNat_inj, BitVec.ofNat_eq_ofNat, BitVec.toNat_zero]
    omega
  have hcompute : seqStep (seqGoto .sCompute s) =
      .next (seqGoto (loopState .sUnpad (s.ops.inlen.toNat / 16)) (loadIv s)) := by
    simp only [seqStep, seqGoto_seq, seqCompute, seqGoto_cur, h.cur, decode_encode, seqGoto_ops, loopState_eq_ite,
      ← hempty]
    rfl
  have hplain : PlainHolds [] (s.ops.inlen.toNat / 16) (loadIv s) :=
    ⟨by rw [loadIv_ops, loadIv_blk, h.blk]; omega, by rw [loadIv_blk, h.blk]; rfl⟩
  exact reaches_of_computed h (by decide)
    (.of_next hcompute (reaches_decBlocks (s := loadIv s) h.cur hkey hplain))

/-- Settles O44: the block loops are `reaches_encBlocks` and `reaches_decBlocks`. -/
theorem sequencerRefinesCipherCommands : Obligations.SequencerRefinesCipherCommands := by
  intro i s hi
  refine seqRun_refines_exec (fun s h => ?_) s
  rcases hi with rfl | rfl
  · exact reaches_encrypt h
  · exact reaches_decrypt h

end Sys2Proof.Machine

/-! # The checks of R173: O32, O33

A command that fails a check has done nothing but start, so that what it leaves is what an error completion leaves
(`exec_of_invalid`). Which check is reported is read off the list of the command, check by check (`firstError_cons`). -/

namespace Sys2Proof.Machine

/-! ## A command that fails a check, whichever it is (R176, R180) -/

/-- Only ENCRYPT and DECRYPT own `WORK` and `CV` (R23). -/
theorem usesWork_encode_of_ne {i : Instr} (henc : i ≠ .encrypt) (hdec : i ≠ .decrypt) : usesWork (encode i) = false := by
  cases i
  case encrypt => exact absurd rfl henc
  case decrypt => exact absurd rfl hdec
  all_goals rfl

/-- An error completion by itself reaches neither the bus nor what is kept for it. -/
theorem complete_error_keeps_link (i : Instr) (e : Err) (t : State) :
    KeepsBus t (complete i (.error e, t)) ∧ KeepsTx t (complete i (.error e, t)) ∧
      KeepsRx t (complete i (.error e, t)) ∧ (complete i (.error e, t)).crcreg = t.crcreg := by
  by_cases hi : i = .ctxset <;> simp [complete, hi, KeepsBus, KeepsTx, KeepsRx]

/-- An error completion leaves the scratch of a command that does not own it (R23). -/
theorem complete_error_keeps_work {i : Instr} {e : Err} {t : State} (h : usesWork t.cur = false) :
    KeepsWork t (complete i (.error e, t)) := by
  by_cases hi : i = .ctxset <;> simp [complete, hi, KeepsWork, h]

/-- Settles O32: a command whose check fails is its start and an error completion, with no attempt between. -/
theorem validationErrorsStayLocal : Obligations.ValidationErrorsStayLocal := by
  intro i s e hv
  have hvalid : validate i (startCommand (encode i) s) = some e := (validate_startCommand _ _ s).trans hv
  have hexec := exec_of_invalid hvalid
  have hfailed := complete_error_failedWith (attempt_sound (attempt_of_invalid hvalid))
  have ⟨_, herrf, _⟩ := hfailed
  obtain ⟨hbus, htx, hrx, hcrcreg⟩ := complete_error_keeps_link i e (startCommand (encode i) s)
  refine ⟨_, hexec, hfailed, commandsKeepWhatTheHostOwns i s _ hexec, hbus, htx, hrx,
    exec_failed_keeps_ctx hexec herrf, hcrcreg, fun hi => ?_, fun henc hdec => ?_⟩
  · exact ((onlyCtxsetWritesTheContext i s _ hexec).1 hi).2
  · exact complete_error_keeps_work (t := startCommand (encode i) s) (usesWork_encode_of_ne henc hdec)

/-! ## The checks, read as conditions (R173) -/

theorem firstError_nil : firstError [] = none := rfl

theorem firstError_cons (failed : Bool) (e : Err) (rest : List (Bool × Err)) :
    firstError ((failed, e) :: rest) = if failed then some e else firstError rest := rfl

theorem capacityExceeded_eq_true {s : State} :
    capacityExceeded s = true ↔ s.cfg.bufCap < s.ops.inlen.toNat ∨ s.cfg.bufCap < s.ops.outcap.toNat := by
  simp [capacityExceeded]

theorem firstError_keyChecks (slot keyIdx : Byte) :
    firstError (keyChecks slot keyIdx) =
      if 15 < slot.toNat then some .invalidParameter
      else if 3 < keyIdx.toNat then some .invalidParameter else none := by
  simp only [keyChecks, firstError_cons, firstError_nil, decide_eq_true_eq]
  rfl

theorem modeOfBit_eq_cbc {b : BitVec 1} : modeOfBit b = .cbc ↔ b = 1 := by
  revert b; decide

/-- The size policy refuses a length when nothing pads it to whole blocks (R140). -/
theorem sizeFails_eq_true {n : Nat} {b : BitVec 1} :
    sizeFails n (paddingOfBit b) = true ↔ b = 0 ∧ n % 16 ≠ 0 := by
  by_cases hrefused : b = 0 ∧ n % 16 ≠ 0
  · have hfails : sizeFails n (paddingOfBit b) = true := by
      rw [hrefused.1, paddingOfBit_zero]
      exact sizeFails_of_error (requiredOutputSize_noPad_of_partial hrefused.2)
    exact iff_of_true hfails hrefused
  · have hpasses : sizeFails n (paddingOfBit b) = false :=
      sizeFails_of_ok (requiredOutputSize_of_accepted fun hb => by simpa [hb] using hrefused)
    exact iff_of_false (by simp [hpasses]) hrefused

/-- Of an accepted length, the capacity is compared with the size of the policy (R146). -/
theorem outputTooSmallFor_eq_true {outcap n : Nat} {b : BitVec 1} (h : b = 0 → n % 16 = 0) :
    outputTooSmallFor outcap n (paddingOfBit b) = true ↔ outcap < if b = 0 then n else (n / 16 + 1) * 16 := by
  simp [outputTooSmallFor, requiredOutputSize_of_accepted h]

/-- The two checks ENCRYPT makes against the size policy. The second is looked at only when the first passes. -/
theorem sizeChecks_eq {α : Type} (outcap n : Nat) (b : BitVec 1) (x y z : α) :
    (if sizeFails n (paddingOfBit b) = true then x
      else if outputTooSmallFor outcap n (paddingOfBit b) = true then y else z) =
      if b = 0 ∧ n % 16 ≠ 0 then x
      else if outcap < (if b = 0 then n else (n / 16 + 1) * 16) then y else z := by
  simp only [sizeFails_eq_true]
  refine ite_congr rfl (fun _ => rfl) fun haccepted => ?_
  simp only [outputTooSmallFor_eq_true (show b = 0 → n % 16 = 0 by simpa using haccepted)]

/-- Settles O33: each row is its list of checks, each check read as its condition. -/
theorem validationTable : Obligations.ValidationTable := by
  intro s
  refine ⟨?crc16, ?build, ?parse, ?send, ?receive, ?cryptblock, ?reqsize, ?ctxset, ?encrypt, ?decrypt⟩
  case crc16 => simp only [validate, validateCrc16, firstError_cons, firstError_nil, decide_eq_true_eq]
  case build =>
    simp only [validate, validateBuild, firstError_cons, firstError_nil, capacityExceeded_eq_true, decide_eq_true_eq]
  case parse =>
    simp only [validate, validateParse, firstError_cons, firstError_nil, Bool.or_eq_true, Bool.and_eq_true,
      decide_eq_true_eq]
  case send => simp only [validate, validateSend, firstError_cons, firstError_nil, decide_eq_true_eq]
  case receive =>
    simp only [validate, validateReceive, firstError_cons, firstError_nil, Bool.or_eq_true, Bool.and_eq_true,
      decide_eq_true_eq]
  case cryptblock =>
    simp only [validate, validateCryptblock, List.cons_append, List.nil_append, firstError_cons, firstError_keyChecks,
      capacityExceeded_eq_true, decide_eq_true_eq]
  case reqsize =>
    simp only [validate, validateReqsize, firstError_cons, firstError_nil, sizeFails_eq_true, decide_eq_true_eq]
  case ctxset =>
    simp only [validate, validateCtxset, firstError_cons, firstError_nil, modeOfBit_eq_cbc, Bool.and_eq_true,
      decide_eq_true_eq]
  case encrypt =>
    simp only [validate, validateEncrypt, List.cons_append, List.nil_append, firstError_cons, firstError_keyChecks,
      capacityExceeded_eq_true, Bool.not_eq_true', sizeChecks_eq]
  case decrypt =>
    simp only [validate, validateDecrypt, List.cons_append, List.nil_append, firstError_cons, firstError_keyChecks,
      capacityExceeded_eq_true, Bool.not_eq_true', decide_eq_true_eq]

end Sys2Proof.Machine

/-! # While a command runs, and reset: O47, O53

A host action stands between the block and its queue alone: what the line itself does is one lemma about
`writeRegNumber`, `writeInbuf`, `hostReadOutbuf` or `resetBlock`, and `step_of_hostAct` makes it the step. -/

namespace Sys2Proof.Machine

/-! ## Host accesses while `BUSY = 1` (R206) -/

/-- A write by register number is dropped, a write to `CMD` too. -/
theorem writeRegNumber_of_busy {s : State} (n : Byte) (v : Word128) (h : s.busy = true) : writeRegNumber n v s = s :=
  if_pos h

theorem writeInbuf_of_busy {s : State} {off : Nat} {bytes : Bytes} (h : s.busy = true)
    (hfit : off + bytes.length ≤ s.cfg.bufCap) : writeInbuf off bytes s = .next s := by
  rw [writeInbuf, if_neg (Nat.not_lt.2 hfit), if_pos h]

/-- OUTBUF has no defined part (R26, log entry 19). -/
theorem definedOut_of_busy {s : State} (h : s.busy = true) : definedOut s = 0 := by
  rw [definedOut_eq, if_neg fun ⟨_, hidle, _⟩ => Bool.false_ne_true (hidle.symm.trans h)]

/-- A read of a byte outside the defined part is refused (R26). -/
theorem hostReadOutbuf_of_undefined {s : State} {off n : Nat} (hfit : off + n ≤ s.cfg.bufCap) (hn : 0 < n)
    (h : definedOut s < off + n) : hostReadOutbuf off n s = .refused .outbufUndefined := by
  rw [hostReadOutbuf, if_neg (Nat.not_lt.2 hfit), if_pos ⟨hn, h⟩]

/-- `BUSY` is bit 0 of `STATUS`, `DONE` bit 1 (R13). -/
theorem statusByte_low_bits (s : State) :
    (statusByte s).getLsbD 0 = s.busy ∧ (statusByte s).getLsbD 1 = s.done := by
  unfold statusByte
  generalize s.busy = b, s.done = d, s.errf = e, s.ctxValid = c
  revert b d e c
  decide

/-- What a host read of `STATUS` sees of `BUSY` and `DONE` (R206). -/
theorem hostStatus_low_bits (s : State) :
    (hostStatus s).getLsbD 0 = s.busy ∧ (hostStatus s).getLsbD 1 = (s.done && !s.busy) :=
  statusByte_low_bits _

theorem whenIdle_of_busy {s : State} (v : Byte) (h : s.busy = true) : whenIdle s v = 0 := if_pos h

theorem whenIdle16_of_busy {s : State} (v : Word16) (h : s.busy = true) : whenIdle16 s v = 0 := if_pos h

/-- `STATUS` is register number 1, of 8 bits (R14). -/
theorem readRegNumber_status_getLsbD (s : State) {k : Nat} (hk : k < 8) :
    (readRegNumber s 1).getLsbD k = (hostStatus s).getLsbD k := by
  have hreg : readRegNumber s 1 = (hostStatus s).setWidth 128 := rfl
  rw [hreg, BitVec.getLsbD_setWidth, decide_eq_true (show k < 128 by omega), Bool.true_and]

/-- Numbers 2, 3, 6 and 7 are `ERR`, `DEVSTAT`, `OUTLEN` and `CRCOUT` (R14): they show no result of a running command
(log entry 10). -/
theorem readRegNumber_results_of_busy {s : State} (h : s.busy = true) :
    readRegNumber s 2 = 0 ∧ readRegNumber s 3 = 0 ∧ readRegNumber s 6 = 0 ∧ readRegNumber s 7 = 0 :=
  ⟨congrArg (BitVec.setWidth 128) (whenIdle_of_busy s.err h), congrArg (BitVec.setWidth 128) (whenIdle_of_busy s.devstat h),
    congrArg (BitVec.setWidth 128) (whenIdle16_of_busy s.outlen h),
    congrArg (BitVec.setWidth 128) (whenIdle16_of_busy s.crcout h)⟩

/-- Settles O47: taking the line from the queue leaves the block busy, and a busy block drops writes and shows no
result. -/
theorem hostWritesAreIgnoredWhileBusy : Obligations.HostWritesAreIgnoredWhileBusy := by
  intro s rest hb
  have hrest : (setHostq rest s).busy = true := (setHostq_busy ..).trans hb
  obtain ⟨hbusy, hdone⟩ := hostStatus_low_bits s
  refine ⟨fun n v hq => ?_, fun off bytes hq hfit => ?_, fun off n hq hfit hn => ?_, ?_, ?_,
    readRegNumber_results_of_busy hb⟩
  · rw [step_of_hostAct hq, hostAct, writeRegNumber_of_busy n v hrest]
    rfl
  · rw [step_of_hostAct hq, hostAct, writeInbuf_of_busy hrest hfit]
    rfl
  · rw [step_of_hostAct hq, hostAct]
    exact hostReadOutbuf_of_undefined hfit hn (by rw [definedOut_of_busy hrest]; omega)
  · rw [readRegNumber_status_getLsbD s (by decide), hbusy, hb]
  · rw [readRegNumber_status_getLsbD s (by decide), hdone, hb, Bool.not_true, Bool.and_false]

/-! ## Reset (R200, R26) -/

/-- After a reset no byte of an array has a value (R26). -/
theorem resetBlock_arrays_read (s : State) (a : Nat) :
    (resetBlock s).inbuf.read a = none ∧ (resetBlock s).outbuf.read a = none ∧ (resetBlock s).txbuf.read a = none ∧
      (resetBlock s).rxbuf.read a = none ∧ (resetBlock s).work.read a = none :=
  ⟨rfl, rfl, rfl, rfl, rfl⟩

/-- Settles O53: the step is `resetBlock`, which takes nothing but configuration and records from the state before. -/
theorem resetAbandonsARunningCommand : Obligations.ResetAbandonsARunningCommand := by
  intro s rest hq
  refine ⟨resetBlock (setHostq rest s), step_of_hostAct hq, ?_⟩
  exact ⟨rfl, rfl, rfl, rfl, rfl, rfl, rfl, rfl, rfl, rfl, rfl, rfl, rfl, rfl, rfl, rfl, rfl, rfl, rfl, rfl,
    resetBlock_arrays_read _⟩

end Sys2Proof.Machine
